-- ==== Sys2Proof/Word.lean ====
section
/-! DEFINITION. The word types of OWSEQ: the byte, the 64-bit DeviceAddress and the 80-bit word of the two host channels
(spec/00_scope.md R7, spec/30_encoding.md R51, R55). -/

namespace Sys2Proof

/-- A byte: 8 bits, bit 0 least significant (R7). -/
abbrev Byte := BitVec 8

/-- A DeviceAddress as the ports carry it: byte `k` of the identifier is bits `8k+7:8k` (R40, decision D26). -/
abbrev Address := BitVec 64

/-- A command word or a response word: 80 bits, byte `j` is bits `8j+7:8j` (R7, R51, R55). -/
abbrev PortWord := BitVec 80

end Sys2Proof
end

