-- ==== Sys2Proof/Syntax.lean ====
section
/-! DEFINITION. The 14 commands of OWSEQ as syntax, one constructor per row of spec/opcode_table.json (spec/30_encoding.md R53),
with the operands R51 and R52 give each format. -/

namespace Sys2Proof

/-- A command. A field a format does not use is no operand: R52 (d), U9. -/
inductive Instr where
  /-- NOP (R130). -/
  | nop
  /-- SCAN (R72). -/
  | scan
  /-- ADDRIDX: the zero-based ordinal `index` (R75). -/
  | addrIdx (index : Nat)
  /-- ISVALID (R73). -/
  | isValid (a : Address)
  /-- ISFAMILY (R74). -/
  | isFamily (a : Address)
  /-- GETCOUNT (R76). -/
  | getCount
  /-- GETFCOUNT (R77). -/
  | getFCount
  /-- GETPARA (R78). -/
  | getPara
  /-- GETSTAT (R131). -/
  | getStat
  /-- WRITE.RUN (R101): bit 0 of `pins` is pin 0, bit 1 is pin 1, 1 is HIGH. -/
  | writeRun (pins : BitVec 2) (a : Address)
  /-- WRITE.STEP (R100), operands as WRITE.RUN. -/
  | writeStep (pins : BitVec 2) (a : Address)
  /-- READ.RUN (R119). -/
  | readRun (a : Address)
  /-- READ.STEP (R118). -/
  | readStep (a : Address)
  /-- ISCONN (R120). -/
  | isConn (a : Address)
  deriving DecidableEq, Repr

end Sys2Proof
end

