-- ==== Sys2Proof/WellFormed.lean ====
section
/-! DEFINITION. Which terms of `Instr` a command word can carry: the one operand whose type is wider than its field is the index
of ADDRIDX, an 8-bit ordinal (spec/30_encoding.md R52 (a), decision D7, U12). -/

namespace Sys2Proof

/-- `i` can be encoded: an ADDRIDX index is 0 to 255; every other operand has the width of its field. -/
def Instr.wellFormed (i : Instr) : Bool :=
  match i with
  | .nop => true
  | .scan => true
  | .addrIdx index => decide (index < 256)
  | .isValid _ => true
  | .isFamily _ => true
  | .getCount => true
  | .getFCount => true
  | .getPara => true
  | .getStat => true
  | .writeRun _ _ => true
  | .writeStep _ _ => true
  | .readRun _ => true
  | .readStep _ => true
  | .isConn _ => true

end Sys2Proof
end

