-- ==== Sys2Proof/Decode.lean ====
section
/-! DEFINITION. The decoder of the 80-bit command word, total on every word (spec/30_encoding.md R51 to R54, R65), and the encoder
written from the same tables. A word is decoded from its opcode byte alone; the fields its format does not use are ignored. -/

namespace Sys2Proof

/-- `cmd[7:0]` (R51). -/
def opcodeField (w : PortWord) : Byte := w.extractLsb' 0 8

/-- `cmd[15:8]` (R51). -/
def argField (w : PortWord) : Byte := w.extractLsb' 8 8

/-- `cmd[79:16]`: address byte `k` is `cmd[23+8k : 16+8k]` (R51, R52 (c)). -/
def addrField (w : PortWord) : Address := w.extractLsb' 16 64

/-- `arg[1:0]`: pin 1 and pin 0; `arg[7:2]` is ignored (R52 (b)). -/
def pinsField (w : PortWord) : BitVec 2 := w.extractLsb' 8 2

/-- Why a word is no command. -/
inductive DecodeError where
  /-- The opcode is one of the 242 reserved values (R54). -/
  | reservedOpcode (opcode : Byte)
  deriving DecidableEq, Repr

/-- The command a word stands for, or the reserved opcode it holds (R53, R54). -/
def decode (w : PortWord) : Except DecodeError Instr :=
  match (opcodeField w).toNat with
  | 0x00 => .ok .nop
  | 0x01 => .ok .scan
  | 0x02 => .ok (.addrIdx (argField w).toNat)
  | 0x03 => .ok (.isValid (addrField w))
  | 0x04 => .ok (.isFamily (addrField w))
  | 0x05 => .ok .getCount
  | 0x06 => .ok .getFCount
  | 0x07 => .ok .getPara
  | 0x08 => .ok .getStat
  | 0x10 => .ok (.writeRun (pinsField w) (addrField w))
  | 0x11 => .ok (.writeStep (pinsField w) (addrField w))
  | 0x12 => .ok (.readRun (addrField w))
  | 0x13 => .ok (.readStep (addrField w))
  | 0x14 => .ok (.isConn (addrField w))
  | _ => .error (.reservedOpcode (opcodeField w))

/-- The opcode byte of a command (R53). -/
def Instr.opcode (i : Instr) : Byte :=
  match i with
  | .nop => 0x00
  | .scan => 0x01
  | .addrIdx _ => 0x02
  | .isValid _ => 0x03
  | .isFamily _ => 0x04
  | .getCount => 0x05
  | .getFCount => 0x06
  | .getPara => 0x07
  | .getStat => 0x08
  | .writeRun _ _ => 0x10
  | .writeStep _ _ => 0x11
  | .readRun _ => 0x12
  | .readStep _ => 0x13
  | .isConn _ => 0x14

/-- The `arg` byte of a command: the index of format I, the pins of format W, else 0 (R51, R52). -/
def Instr.argByte (i : Instr) : Byte :=
  match i with
  | .nop => 0
  | .scan => 0
  | .addrIdx index => BitVec.ofNat 8 index
  | .isValid _ => 0
  | .isFamily _ => 0
  | .getCount => 0
  | .getFCount => 0
  | .getPara => 0
  | .getStat => 0
  | .writeRun pins _ => pins.setWidth 8
  | .writeStep pins _ => pins.setWidth 8
  | .readRun _ => 0
  | .readStep _ => 0
  | .isConn _ => 0

/-- The `addr` field of a command: the address of formats A and W, else 0 (R51). -/
def Instr.addrBits (i : Instr) : Address :=
  match i with
  | .nop => 0
  | .scan => 0
  | .addrIdx _ => 0
  | .isValid a => a
  | .isFamily a => a
  | .getCount => 0
  | .getFCount => 0
  | .getPara => 0
  | .getStat => 0
  | .writeRun _ a => a
  | .writeStep _ a => a
  | .readRun a => a
  | .readStep a => a
  | .isConn a => a

/-- A word of its three fields: byte 0, byte 1, bytes 2 to 9 (R51, R55). -/
def wordOfFields (byte0 byte1 : Byte) (address : Address) : PortWord :=
  (address.setWidth 80 <<< 16) ||| (byte1.setWidth 80 <<< 8) ||| byte0.setWidth 80

/-- The command word of `i` (R51), the fields its format does not use 0. -/
def encode (i : Instr) : PortWord := wordOfFields i.opcode i.argByte i.addrBits

/-- A word written as its bytes, byte 0 first (R7, R64); bytes after the tenth do not fit and are dropped. -/
def wordOfBytes (bs : List Byte) : PortWord :=
  BitVec.ofNat 80 (bs.foldr (fun b acc => b.toNat + 256 * acc) 0)

/-- An address written as its bytes, byte 0 first (R7, R40). -/
def addressOfBytes (bs : List Byte) : Address :=
  BitVec.ofNat 64 (bs.foldr (fun b acc => b.toNat + 256 * acc) 0)

/-- A table row's bits as a command word: the bits above `nbits` are 0. -/
def tableWord (nbits w : Nat) : PortWord := BitVec.ofNat 80 (w % 2 ^ nbits)

/-- What the decoder reads from a table row's bits. -/
def decodeTableWord (nbits w : Nat) : Option Instr :=
  match decode (tableWord nbits w) with
  | .ok i => some i
  | .error _ => none

end Sys2Proof
end

