-- ==== Sys2Proof/Config.lean ====
section
/-! DEFINITION. The configuration of an OWSEQ: the parameters of spec/00_scope.md R6. A configuration is fixed for the life of a
machine (spec/10_state.md R11 (a)). The defaults stand in Machine/Params.lean, the default checksum in Machine/Operands.lean. -/

namespace Sys2Proof

/-- Which function `CHECKSUM8` is (R71). The spec takes any total function of the byte list and names a default. -/
inductive Checksum where
  /-- The default instance of R71, the reflected CRC-8 of constant 0x8C. -/
  | crc8
  /-- Any other function: the `n`-th of the functions nothing is known of (`Config.otherChecksum`). -/
  | other (n : Nat)
  deriving DecidableEq, Repr

/-- The checksum functions of which nothing is known but that each is a function of its bytes (R71, last sentence; log entry 3).
No body: no proof can see a value of it. -/
opaque Config.otherChecksum : Nat → List Byte → Byte

/-- The parameters of R6, one field each. -/
structure Config where
  /-- `FAMILY_CODE`, read by R72 and R74. -/
  familyCode : Byte
  /-- `CMD_ACCESS_READ`, sent by read step 3 (R113). -/
  cmdAccessRead : Byte
  /-- `CMD_ACCESS_WRITE`, sent by write step 3 (R93). -/
  cmdAccessWrite : Byte
  /-- `ACK_SUCCESS`, compared in write step 7 (R97). -/
  ackSuccess : Byte
  /-- `GENERIC_FAIL`, read by no rule (R61, U7). -/
  genericFail : Byte
  /-- `CHECKSUM8` (R70, R71). -/
  checksum : Checksum
  /-- `SELECT_IMMEDIATE`, the `imm` of every `select` (R35). -/
  selectImmediate : Bool
  /-- `RD_PIN0_BIT`, 0 to 7 (R116). -/
  rdPin0Bit : Fin 8
  /-- `RD_PIN1_BIT`, 0 to 7 (R116, decision D31). -/
  rdPin1Bit : Fin 8
  deriving DecidableEq, Repr

end Sys2Proof
end

