-- ==== Sys2Proof/Machine/Params.lean ====
section
/-! DEFINITION. The default parameters of spec/00_scope.md R6. -/

namespace Sys2Proof

/-- The defaults of R6. The five byte constants and the checksum are general knowledge there (decisions D21, D22), `SELECT_IMMEDIATE`
is decision D20, and `RD_PIN1_BIT` is the source's value, a parameter by D31. PRESUMED: log entry 2. -/
def Config.default : Config where
  familyCode := 0x3A
  cmdAccessRead := 0xF5
  cmdAccessWrite := 0x5A
  ackSuccess := 0xAA
  genericFail := 0xFF
  checksum := .crc8
  selectImmediate := false
  rdPin0Bit := 0
  rdPin1Bit := 1

end Sys2Proof
end

