-- ==== Sys2Proof/Machine/State.lean ====
section
/-! DEFINITION. The state of OWSEQ as plain data: the nine registers of spec/10_state.md R10, the command in progress (R50), the
configuration, and the three lists through which the machine meets the outside: the host's inputs, the provider's inputs and
what the block has put on its ports (bus trace and responses). -/

namespace Sys2Proof.Machine

/-- The cause codes of R140. -/
inductive Cause where
  /-- 0 NONE. -/
  | noError
  /-- 1 BUS_PRESENCE (R141). -/
  | busPresence
  /-- 2 SELECTION (R142). -/
  | selection
  /-- 3 VERIFY (R143). -/
  | verify
  /-- 4 CHECKSUM (R144): reserved, reported by no rule. -/
  | checksum
  /-- 5 ILLEGAL_COMMAND (R145). -/
  | illegalCommand
  /-- 6 STAGE_RANGE (R146). -/
  | stageRange
  deriving DecidableEq, Repr

/-- The fields of a response word (R55). -/
structure Response where
  done : Bool
  ok : Bool
  cause : Cause
  data : Byte
  raddr : Address
  deriving DecidableEq, Repr

/-- A provider answer as the answer channel carries it (R59): `bans_flag`, `bans_byte`, `bans_addr`. -/
structure Answer where
  flag : Bool
  byte : Byte
  addr : Address
  deriving DecidableEq, Repr

/-- What the registers that R23 and R160 leave unspecified happen to hold after a reset: any value, an input of the machine
(U5; log entry 1). -/
structure PowerUp where
  pend0 : Byte
  pend1 : Byte
  wstate : Byte
  PINS : BitVec 2
  deriving DecidableEq, Repr

/-- What can come while a provider request is outstanding: its answer (R39, R59), or `rst` (R160, R171; log entry 5). -/
inductive BusInput where
  | answer (a : Answer)
  | rst (u : PowerUp)
  deriving DecidableEq, Repr

/-- What can come while no command is in progress: a command word that the block accepts (R50), or `rst` (R160). -/
inductive HostInput where
  | command (w : PortWord)
  | rst (u : PowerUp)
  deriving DecidableEq, Repr

/-- The provider requests, one per primitive (R31, R58). -/
inductive Request where
  | reset
  | resetSearch
  | search
  | select (a : Address) (imm : Bool)
  | writeByte (b : Byte)
  | readByte
  | powerMode (a : Address)
  deriving DecidableEq, Repr

/-- The events of the bus trace (R48). A `search` that found nothing carries no address (R34). -/
inductive Event where
  | reset (presence : Bool)
  | resetSearch
  | search (hit : Option Address)
  | select (a : Address) (imm ok : Bool)
  | writeByte (b : Byte)
  | readByte (b : Byte)
  | powerMode (a : Address) (parasitic : Bool)
  deriving DecidableEq, Repr

/-- The kind of a sequence (R9). -/
inductive Kind where
  | write
  | read
  deriving DecidableEq, Repr

/-- An Engine command: the operands of `Step(kind, a, arg, discard)` (R90) and whether it runs to completion. -/
structure EngineCmd where
  kind : Kind
  /-- Run-to-completion mode (R9); otherwise single-step mode. -/
  run : Bool
  /-- 1 only for ISCONN (R110). -/
  discard : Bool
  addr : Address
  pins : BitVec 2
  deriving DecidableEq, Repr

/-- A command in progress, waiting for the answer of the one request it has outstanding (R50, R42), with the locals that live until
the command ends (R8, R72, R75). -/
inductive Activity where
  /-- An Engine command in the step that `stage` selects. -/
  | engine (c : EngineCmd)
  /-- SCAN at its `Bus.resetSearch()`. -/
  | scanReset
  /-- SCAN at a `Bus.search()`. -/
  | scanSearch
  /-- SCAN at a `Bus.powerMode(a)`. -/
  | scanPower (a : Address)
  /-- ADDRIDX at its `Bus.resetSearch()`. -/
  | walkReset (index : Nat)
  /-- ADDRIDX at the `Bus.search()` for walk position `depth`. -/
  | walkSearch (index depth : Nat)
  deriving DecidableEq, Repr

/-- The machine. -/
structure State where
  /-- The configuration (R6): not a register, and no rule writes it (R11 (a); log entry 2). -/
  cfg : Config
  /-- Valid addresses of the last scan (R12). -/
  deviceCount : Byte
  /-- Those of the target family (R13). -/
  familyDeviceCount : Byte
  /-- Sticky within a scan (R15). -/
  parasiticPowerFlag : Bool
  /-- Steps of the current sequence already executed, 0 is idle (R14). -/
  stage : BitVec 4
  /-- Sticky error flag (R16). -/
  lastError : Bool
  /-- First byte captured in the current sequence (R17). -/
  pend0 : Byte
  /-- Second status byte of a write (R18). -/
  pend1 : Byte
  /-- Write-state byte (R19). -/
  wstate : Byte
  /-- Decoded pins of the last successful read: bit 0 is pin 0, bit 1 is pin 1 (R20). -/
  PINS : BitVec 2
  /-- The command in progress (R50); `none` is `cmd_ready`. -/
  activity : Option Activity
  /-- What the host will present, in order (R50, R160). -/
  host : List HostInput
  /-- What the provider will answer, in order: free inputs (R39; log entry 4). -/
  answers : List BusInput
  /-- The bus trace so far, oldest first (R48). -/
  trace : List Event
  /-- The response words presented so far, oldest first (R55). -/
  responses : List PortWord
  deriving DecidableEq, Repr

/-- Why the machine stops. -/
inductive Fault where
  /-- Raised by `step` alone, when a command waits on a provider request and no answer and no `rst` will come: the stuck block of
  R171 and U11 ("a model has no step for a block waiting on an unanswered request"). Safe: the machine stops. -/
  | noProviderAnswer
  deriving DecidableEq, Repr

/-- Why an instruction has no meaning. -/
inductive Refusal where
  /-- Raised by an arm of `exec` whose instruction has no meaning yet; no arm does so. Safe: the machine stops. -/
  | notModelled (mnemonic : String)
  deriving DecidableEq, Repr

/-- The machine after a reset in which the unspecified registers hold `u`, with nothing to come and nothing seen (R23, R160). -/
def State.powerOn (cfg : Config) (u : PowerUp) : State where
  cfg := cfg
  deviceCount := 0
  familyDeviceCount := 0
  parasiticPowerFlag := false
  stage := 0
  lastError := false
  pend0 := u.pend0
  pend1 := u.pend1
  wstate := u.wstate
  PINS := u.PINS
  activity := none
  host := []
  answers := []
  trace := []
  responses := []

/-- The machine right after reset (R23, R160). DESIGN CHOICE, unsafe (log entry 1): the four registers the spec leaves unspecified
hold 0 here; a claim about reset is stated of `State.powerOn` for every `PowerUp`. -/
def State.reset : State :=
  State.powerOn Config.default { pend0 := 0, pend1 := 0, wstate := 0, PINS := 0 }

end Sys2Proof.Machine
end

