-- ==== Sys2Proof/Machine/Flags.lean ====
section
/-! DEFINITION. The flags and the words made of them: the sticky error flag (R16, R90), the success value of a sequence's last step
(R99, R117), the status byte of GETSTAT (R131), the cause codes (R140) and the response word (R55). -/

namespace Sys2Proof.Machine

/-- The prologue of a step: a step that finds the Engine idle clears `lastError` (R90, decision D9). -/
def State.clearErrorIfIdle (s : State) : State :=
  if s.stage = 0#4 then { s with lastError := false } else s

/-- `1 - lastError`: the `ok` of a sequence's last step (R99, R117). -/
def State.okBit (s : State) : Bool := !s.lastError

/-- `(stage << 4) | zext_8(lastError)` (R131). -/
def State.statusByte (s : State) : Byte := (s.stage.setWidth 8 <<< 4) ||| (BitVec.ofBool s.lastError).setWidth 8

/-- The 3-bit cause code (R140). -/
def Cause.code (c : Cause) : BitVec 3 :=
  match c with
  | .noError => 0
  | .busPresence => 1
  | .selection => 2
  | .verify => 3
  | .checksum => 4
  | .illegalCommand => 5
  | .stageRange => 6

/-- Byte 0 of a response word: `done` in bit 0, `ok` in bit 1, `cause` in bits 6:4, the reserved bits 0 (R55). -/
def Response.byte0 (r : Response) : Byte :=
  (r.cause.code.setWidth 8 <<< 4) ||| ((BitVec.ofBool r.ok).setWidth 8 <<< 1) ||| (BitVec.ofBool r.done).setWidth 8

/-- The 80-bit response word (R55). -/
def Response.word (r : Response) : PortWord := wordOfFields r.byte0 r.data r.raddr

end Sys2Proof.Machine
end

