-- ==== Sys2Proof/Machine/Operands.lean ====
section
/-! DEFINITION. The values the rules compute from operands and bytes: the bytes of an address and its checksum (R7, R70, R71), the
family test (R74), the saturating counters (R79), the write-state byte (R62) and the read-result byte (R63). -/

namespace Sys2Proof.Machine

/-- `a[k]`: byte `k` of a DeviceAddress (R7, R40). -/
def addressByte (a : Address) (k : Nat) : Byte := a.extractLsb' (8 * k) 8

/-- `a[0..6]`: the first seven bytes in index order (R7). -/
def addressPrefix (a : Address) : List Byte :=
  [addressByte a 0, addressByte a 1, addressByte a 2, addressByte a 3, addressByte a 4, addressByte a 5, addressByte a 6]

/-- The inner loop of the default `CHECKSUM8` (R71), `n` bits of the byte `b`, least significant first. -/
def crc8Bits : Nat → Byte → Byte → Byte
  | 0, crc, _ => crc
  | n + 1, crc, b =>
    if (crc ^^^ b) &&& 1 = 1 then crc8Bits n ((crc >>> 1) ^^^ 0x8C) (b >>> 1)
    else crc8Bits n (crc >>> 1) (b >>> 1)

/-- The default instance of `CHECKSUM8` (R71). -/
def crc8 (bytes : List Byte) : Byte := bytes.foldl (fun crc b => crc8Bits 8 crc b) 0

/-- `CHECKSUM8`, the configuration function (R71). -/
def checksum8 (cfg : Config) (bytes : List Byte) : Byte :=
  match cfg.checksum with
  | .crc8 => crc8 bytes
  | .other n => Config.otherChecksum n bytes

/-- `Valid(a) = (CHECKSUM8(a[0..6]) == a[7])` (R70). -/
def validAddress (cfg : Config) (a : Address) : Bool :=
  checksum8 cfg (addressPrefix a) == addressByte a 7

/-- `a[0] == FAMILY_CODE` (R74). -/
def inFamily (cfg : Config) (a : Address) : Bool := addressByte a 0 == cfg.familyCode

/-- `sat_inc(c)` (R8, R79). -/
def satInc (c : Byte) : Byte := if c < 255 then c + 1 else 255

/-- The write-state byte `0xFF & ~zext_8(arg[1:0])` (R62, R94). -/
def stateByte (pins : BitVec 2) : Byte := 0xFF &&& ~~~(pins.setWidth 8)

/-- The nibble check of a read-result byte: `(~r & 0x0F) == (r >> 4)` (R63, R116). -/
def nibbleCheck (r : Byte) : Bool := (~~~r &&& 0x0F) == (r >>> 4)

/-- The pins a read-result byte decodes to: `PINS[0] = ~r[RD_PIN0_BIT]`, `PINS[1] = ~r[RD_PIN1_BIT]` (R63, R116). -/
def decodePins (cfg : Config) (r : Byte) : BitVec 2 :=
  BitVec.ofBool (!r.getLsbD cfg.rdPin1Bit) ++ BitVec.ofBool (!r.getLsbD cfg.rdPin0Bit)

end Sys2Proof.Machine
end

