-- ==== Sys2Proof/Machine/Ops.lean ====
section
/-! DEFINITION. The shared operations of the commands: the provider request and its event (R48, R58), waiting on a request, the
response that ends a command (R55), the abort transition (R147) and reset (R160). The block has no memory (R30) and no return
from an abort (R150): after one the Engine is idle. -/

namespace Sys2Proof.Machine

/-- A request as the request channel carries it (R50, R58). -/
structure RequestWord where
  op : BitVec 3
  imm : Bool
  byte : Byte
  addr : Address
  deriving DecidableEq, Repr

/-- The request channel's fields for each primitive; an operand it does not carry is 0 (R58). -/
def Request.port (q : Request) : RequestWord :=
  match q with
  | .reset => { op := 0, imm := false, byte := 0, addr := 0 }
  | .resetSearch => { op := 1, imm := false, byte := 0, addr := 0 }
  | .search => { op := 2, imm := false, byte := 0, addr := 0 }
  | .select a imm => { op := 3, imm := imm, byte := 0, addr := a }
  | .writeByte b => { op := 4, imm := false, byte := b, addr := 0 }
  | .readByte => { op := 5, imm := false, byte := 0, addr := 0 }
  | .powerMode a => { op := 6, imm := false, byte := 0, addr := a }

/-- The event an answered request appends to the bus trace: the request's arguments and the answer fields the block reads (R48,
R59). The address of a `search` that found nothing is ignored (R34). -/
def Request.event (q : Request) (ans : Answer) : Event :=
  match q with
  | .reset => .reset ans.flag
  | .resetSearch => .resetSearch
  | .search => .search (if ans.flag then some ans.addr else none)
  | .select a imm => .select a imm ans.flag
  | .writeByte b => .writeByte b
  | .readByte => .readByte ans.byte
  | .powerMode a => .powerMode a ans.flag

/-- Append one event to the bus trace (R48). -/
def State.log (e : Event) (s : State) : State := { s with trace := s.trace ++ [e] }

/-- Wait on the request of `act` (R50, R44). -/
def State.waitFor (act : Activity) (s : State) : State := { s with activity := some act }

/-- End the command with its one response word (R8, R55). -/
def State.respond (r : Response) (s : State) : State :=
  { s with activity := none, responses := s.responses ++ [r.word] }

/-- `rst`: the command in progress is dropped without a response, the five registers with a reset value take it, the four others
hold any value `u`; the bus trace is kept and nothing outside the block is reset (R160, R161, R23). -/
def State.takeReset (u : PowerUp) (s : State) : State :=
  { s with
    deviceCount := 0, familyDeviceCount := 0, parasiticPowerFlag := false, stage := 0, lastError := false,
    pend0 := u.pend0, pend1 := u.pend1, wstate := u.wstate, PINS := u.PINS, activity := none }

/-- What a step returns, `(done, ok, cause)`, and the state it leaves (R90). -/
structure StepResult where
  done : Bool
  ok : Bool
  cause : Cause
  state : State

/-- One step of a sequence (R90, R149): it makes no provider call and returns, or it makes one, `q`, after the writes in `s`, and
goes on with the answer from the state in which the call is answered. -/
inductive StepProg where
  | ret (r : StepResult)
  | call (q : Request) (s : State) (k : Answer → State → StepResult)

/-- A step that is neither the last nor aborted: `stage <- n ; return (0, 0, 0)` (R90). -/
def goOn (n : BitVec 4) (s : State) : StepResult :=
  { done := false, ok := false, cause := .noError, state := { s with stage := n } }

/-- The last step: `stage <- 0 ; return (1, 1 - lastError, 0)` (R99, R117). -/
def finish (s : State) : StepResult :=
  { done := true, ok := s.okBit, cause := .noError, state := { s with stage := 0 } }

/-- The abort, `raise X`: `lastError <- 1`, `stage <- 0`, and the step ends with `(1, 0, code of X)`; nothing else is saved or
changed (R147). -/
def raise (x : Cause) (s : State) : StepResult :=
  { done := true, ok := false, cause := x, state := { s with lastError := true, stage := 0 } }

end Sys2Proof.Machine
end

