-- ==== Sys2Proof/Machine/Directory.lean ====
section
/-! DEFINITION. The two walks of the Device Directory, SCAN (spec/40_directory.md R72) and ADDRIDX (R75), cut at their provider
calls: what is done before the first call and what is done with each answer. -/

namespace Sys2Proof.Machine

/-- `respond(done=1, ok=ok, cause=0, data=data, addr=0)` of the commands that raise nothing (R57). -/
def answered (ok : Bool) (data : Byte) : Response :=
  { done := true, ok := ok, cause := .noError, data := data, raddr := 0 }

/-- SCAN up to its `Bus.resetSearch()`: the three registers are cleared (R72). -/
def scanStart (s : State) : State :=
  State.waitFor .scanReset { s with deviceCount := 0, familyDeviceCount := 0, parasiticPowerFlag := false }

/-- SCAN after `Bus.resetSearch()`: the first `Bus.search()`. -/
def scanAfterReset (ans : Answer) (s : State) : State :=
  (s.log (Request.resetSearch.event ans)).waitFor .scanSearch

/-- The counting of one hit: an invalid address counts nowhere (R72, R144). -/
def countHit (a : Address) (s : State) : State :=
  if validAddress s.cfg a then
    { s with
      deviceCount := satInc s.deviceCount
      familyDeviceCount := bif inFamily s.cfg a then satInc s.familyDeviceCount else s.familyDeviceCount }
  else s

/-- SCAN after a `Bus.search()`: the end of the scan, or a hit, after which the power mode of a valid address is asked while the
flag is 0 (R72). -/
def scanAfterSearch (ans : Answer) (s : State) : State :=
  let s := s.log (Request.search.event ans)
  if ans.flag then
    (countHit ans.addr s).waitFor
      (if validAddress s.cfg ans.addr && !s.parasiticPowerFlag then .scanPower ans.addr else .scanSearch)
  else s.respond (answered true 0)

/-- SCAN after a `Bus.powerMode(a)`: the sticky flag (R72, R15). -/
def scanAfterPower (a : Address) (ans : Answer) (s : State) : State :=
  let s := s.log ((Request.powerMode a).event ans)
  State.waitFor .scanSearch (if ans.flag then { s with parasiticPowerFlag := true } else s)

/-- The head of the ADDRIDX loop: another `Bus.search()` while `depth <= index`, else not found (R75). -/
def walkNext (index depth : Nat) (s : State) : State :=
  if depth ≤ index then s.waitFor (.walkSearch index depth) else s.respond (answered false 0)

/-- ADDRIDX up to its `Bus.resetSearch()` (R75). -/
def walkStart (index : Nat) (s : State) : State := s.waitFor (.walkReset index)

/-- ADDRIDX after `Bus.resetSearch()`: the loop at depth 0. -/
def walkAfterReset (index : Nat) (ans : Answer) (s : State) : State :=
  walkNext index 0 (s.log (Request.resetSearch.event ans))

/-- ADDRIDX after a `Bus.search()`: the address at position `index` is the result if it is valid; a hit at a lower position is not
validated (R75). -/
def walkAfterSearch (index depth : Nat) (ans : Answer) (s : State) : State :=
  let s := s.log (Request.search.event ans)
  if ans.flag then
    if depth = index ∧ validAddress s.cfg ans.addr then
      s.respond { done := true, ok := true, cause := .noError, data := 0, raddr := ans.addr }
    else walkNext index (depth + 1) s
  else s.respond (answered false 0)

end Sys2Proof.Machine
end

