-- ==== Sys2Proof/Machine/ReadSequence.lean ====
section
/-! DEFINITION. The seven steps of the read sequence (spec/42_engine_read.md R111 to R117). -/

namespace Sys2Proof.Machine

/-- RD1, R111. -/
def readStep1 (s : State) : StepProg :=
  .call .reset s fun p s => if p.flag then goOn 1 s else raise .busPresence s

/-- RD2, R112. -/
def readStep2 (c : EngineCmd) (s : State) : StepProg :=
  .call (.select c.addr s.cfg.selectImmediate) s fun ok s => if ok.flag then goOn 2 s else raise .selection s

/-- RD3, R113. -/
def readStep3 (s : State) : StepProg :=
  .call (.writeByte s.cfg.cmdAccessRead) s fun _ s => goOn 3 s

/-- RD4, R114. -/
def readStep4 (s : State) : StepProg :=
  .call .readByte s fun b s => goOn 4 { s with pend0 := b.byte }

/-- RD5, R115. -/
def readStep5 (s : State) : StepProg :=
  .call .reset s fun p s => if p.flag then goOn 5 s else raise .busPresence s

/-- RD6, R116: `PINS` is written when the check passes and the command is not ISCONN; no provider call. -/
def readStep6 (c : EngineCmd) (s : State) : StepProg :=
  if nibbleCheck s.pend0 then
    .ret (goOn 6 (if c.discard then s else { s with PINS := decodePins s.cfg s.pend0 }))
  else .ret (raise .verify s)

/-- RD7, R117. -/
def readStep7 (s : State) : StepProg := .ret (finish s)

/-- The read step that `stage` selects (R60). Past 6 the step is a STAGE_RANGE fault, which the prologue of R90 has raised
already. -/
def readStep (c : EngineCmd) (s : State) : StepProg :=
  match s.stage.toNat with
  | 0 => readStep1 s
  | 1 => readStep2 c s
  | 2 => readStep3 s
  | 3 => readStep4 s
  | 4 => readStep5 s
  | 5 => readStep6 c s
  | 6 => readStep7 s
  | _ => .ret (raise .stageRange s)

end Sys2Proof.Machine
end

