-- ==== Sys2Proof/Machine/WriteSequence.lean ====
section
/-! DEFINITION. The nine steps of the write sequence (spec/41_engine_write.md R91 to R99). -/

namespace Sys2Proof.Machine

/-- W1, R91. -/
def writeStep1 (s : State) : StepProg :=
  .call .reset s fun p s => if p.flag then goOn 1 s else raise .busPresence s

/-- W2, R92. -/
def writeStep2 (c : EngineCmd) (s : State) : StepProg :=
  .call (.select c.addr s.cfg.selectImmediate) s fun ok s => if ok.flag then goOn 2 s else raise .selection s

/-- W3, R93. -/
def writeStep3 (s : State) : StepProg :=
  .call (.writeByte s.cfg.cmdAccessWrite) s fun _ s => goOn 3 s

/-- W4, R94. -/
def writeStep4 (c : EngineCmd) (s : State) : StepProg :=
  .call (.writeByte (stateByte c.pins)) { s with wstate := stateByte c.pins } fun _ s => goOn 4 s

/-- W5, R95: the byte sent is the complement of the register. -/
def writeStep5 (s : State) : StepProg :=
  .call (.writeByte (~~~s.wstate)) s fun _ s => goOn 5 s

/-- W6, R96. -/
def writeStep6 (s : State) : StepProg :=
  .call .readByte s fun b s => goOn 6 { s with pend0 := b.byte }

/-- W7, R97: a second read if the acknowledgment matched, an abort with no call if not. -/
def writeStep7 (s : State) : StepProg :=
  if s.pend0 = s.cfg.ackSuccess then
    .call .readByte s fun b s => goOn 7 { s with pend1 := b.byte }
  else .ret (raise .verify s)

/-- W8, R98. -/
def writeStep8 (s : State) : StepProg :=
  .call .reset s fun p s => if p.flag then goOn 8 s else raise .busPresence s

/-- W9, R99. -/
def writeStep9 (s : State) : StepProg := .ret (finish s)

/-- The write step that `stage` selects (R60). Past 8 the step is a STAGE_RANGE fault, which the prologue of R90 has raised
already. -/
def writeStep (c : EngineCmd) (s : State) : StepProg :=
  match s.stage.toNat with
  | 0 => writeStep1 s
  | 1 => writeStep2 c s
  | 2 => writeStep3 s
  | 3 => writeStep4 c s
  | 4 => writeStep5 s
  | 5 => writeStep6 s
  | 6 => writeStep7 s
  | 7 => writeStep8 s
  | 8 => writeStep9 s
  | _ => .ret (raise .stageRange s)

end Sys2Proof.Machine
end

