-- ==== Sys2Proof/Machine/Engine.lean ====
section
/-! DEFINITION. The step function of the Transaction Engine (spec/41_engine_write.md R90, spec/42_engine_read.md R110) and the two
execution modes (R100, R101, R118 to R120). -/

namespace Sys2Proof.Machine

/-- The kind's range test of the prologue: `stage > 8`, or a read at `stage > 6` (R90, R146). -/
def stageOutOfRange (k : Kind) (stage : BitVec 4) : Bool :=
  match k with
  | .write => decide (stage > 8)
  | .read => decide (stage > 6)

/-- `Step(kind, a, arg, discard)` (R90): the prologue, then the step that `stage` selects. -/
def engineStep (c : EngineCmd) (s : State) : StepProg :=
  if stageOutOfRange c.kind s.stage then .ret (raise .stageRange s.clearErrorIfIdle)
  else
    match c.kind with
    | .write => writeStep c s.clearErrorIfIdle
    | .read => readStep c s.clearErrorIfIdle

/-- The `data` of an Engine command's response: `PINS` for READ.RUN and READ.STEP, 0 for the write commands and ISCONN (R57). -/
def engineData (c : EngineCmd) (s : State) : Byte :=
  match c.kind with
  | .write => 0
  | .read => if c.discard then 0 else s.PINS.setWidth 8

/-- The response of an Engine command whose step returned `r` (R100, R101, R118 to R120). -/
def engineRespond (c : EngineCmd) (r : StepResult) : State :=
  r.state.respond { done := r.done, ok := r.ok, cause := r.cause, data := engineData c r.state, raddr := 0 }

/-- Begin steps until one makes a provider call or the command ends: in single-step mode the first return ends it, in
run-to-completion mode the first with `done == 1` (R100, R101). At most `n` steps; 9 are enough (R101). -/
def engineGo : Nat → EngineCmd → State → State
  | 0, _, s => s
  | n + 1, c, s =>
    match engineStep c s with
    | .call _ s' _ => s'.waitFor (.engine c)
    | .ret r => if c.run && !r.done then engineGo n c r.state else engineRespond c r

/-- What an Engine command does with the return of a step that made a provider call. -/
def engineReturn (c : EngineCmd) (r : StepResult) : State :=
  if c.run && !r.done then engineGo 9 c r.state else engineRespond c r

/-- The answer to the outstanding request of an Engine command: the event is appended, the step goes on with the answer (R42, R48).
Where the step `stage` selects makes no call there is no request to answer, and the command goes on as from its start; the
machine never waits so. -/
def engineAnswer (c : EngineCmd) (ans : Answer) (s : State) : State :=
  match engineStep c s with
  | .call q s' k => engineReturn c (k ans (s'.log (q.event ans)))
  | .ret r => engineReturn c r

/-- The outstanding request of an Engine command. -/
def engineRequest (c : EngineCmd) (s : State) : Option Request :=
  match engineStep c s with
  | .call q _ _ => some q
  | .ret _ => none

end Sys2Proof.Machine
end

