-- ==== Sys2Proof/Machine/Provider.lean ====
section
/-! DEFINITION. The provider side of the machine (spec/20_memory.md R39, R42, R44): the request a command in progress has
outstanding, what an input on that side does, and the run of a command over the inputs there are. -/

namespace Sys2Proof.Machine

/-- The request the command in progress has outstanding (R50). -/
def Activity.request (act : Activity) (s : State) : Option Request :=
  match act with
  | .engine c => engineRequest c s
  | .scanReset => some .resetSearch
  | .scanSearch => some .search
  | .scanPower a => some (.powerMode a)
  | .walkReset _ => some .resetSearch
  | .walkSearch _ _ => some .search

/-- The request channel: what the block asks of the provider, if it waits on an answer (R50, R58). -/
def State.requestPort (s : State) : Option RequestWord :=
  (s.activity.bind fun act => act.request s).map Request.port

/-- `cmd_ready`: no command is in progress (R50). -/
def State.cmdReady (s : State) : Bool := s.activity.isNone

/-- The answer to the outstanding request: the command goes on to its next request or to its response. -/
def Activity.onAnswer (act : Activity) (ans : Answer) (s : State) : State :=
  match act with
  | .engine c => engineAnswer c ans s
  | .scanReset => scanAfterReset ans s
  | .scanSearch => scanAfterSearch ans s
  | .scanPower a => scanAfterPower a ans s
  | .walkReset index => walkAfterReset index ans s
  | .walkSearch index depth => walkAfterSearch index depth ans s

/-- One input while a request is outstanding: its answer, or `rst` (R160). -/
def onBusInput (act : Activity) (x : BusInput) (s : State) : State :=
  match x with
  | .answer ans => act.onAnswer ans s
  | .rst u => s.takeReset u

/-- The run of a command over the provider's inputs, one request and one answer at a time (R42, R44), until no command is in
progress or the inputs are used up; what is left over is kept for the next command. -/
def drive : List BusInput → State → State
  | [], s => { s with answers := [] }
  | x :: xs, s =>
    match s.activity with
    | none => { s with answers := x :: xs }
    | some act => drive xs (onBusInput act x s)

/-- A command from what it does first: it runs over the inputs that are there, and waits where they end. -/
def runCommand (s : State) : State := drive s.answers s

end Sys2Proof.Machine
end

