-- ==== Sys2Proof/Machine/DirectoryCommands.lean ====
section
/-! DEFINITION. The seven Directory commands (spec/40_directory.md R72 to R78). -/

namespace Sys2Proof.Machine

/-- SCAN (R72). -/
def execScan (s : State) : Host.Outcome State Fault Refusal :=
  .next (runCommand (scanStart s))

/-- ADDRIDX (R75). -/
def execAddrIdx (index : Nat) (s : State) : Host.Outcome State Fault Refusal :=
  .next (runCommand (walkStart index s))

/-- ISVALID (R73). -/
def execIsValid (a : Address) (s : State) : Host.Outcome State Fault Refusal :=
  .next (s.respond (answered (validAddress s.cfg a) 0))

/-- ISFAMILY (R74): the checksum is not looked at. -/
def execIsFamily (a : Address) (s : State) : Host.Outcome State Fault Refusal :=
  .next (s.respond (answered (inFamily s.cfg a) 0))

/-- GETCOUNT (R76). -/
def execGetCount (s : State) : Host.Outcome State Fault Refusal :=
  .next (s.respond (answered true s.deviceCount))

/-- GETFCOUNT (R77). -/
def execGetFCount (s : State) : Host.Outcome State Fault Refusal :=
  .next (s.respond (answered true s.familyDeviceCount))

/-- GETPARA (R78): the answer is in `data`, not in `ok`. -/
def execGetPara (s : State) : Host.Outcome State Fault Refusal :=
  .next (s.respond (answered true ((BitVec.ofBool s.parasiticPowerFlag).setWidth 8)))

end Sys2Proof.Machine
end

