-- ==== Sys2Proof/Machine/EngineCommands.lean ====
section
/-! DEFINITION. The five Engine commands (spec/41_engine_write.md R100, R101, spec/42_engine_read.md R118 to R120). -/

namespace Sys2Proof.Machine

/-- The Engine command WRITE.RUN stands for (R101). -/
def writeRunCmd (pins : BitVec 2) (a : Address) : EngineCmd :=
  { kind := .write, run := true, discard := false, addr := a, pins := pins }

/-- The Engine command WRITE.STEP stands for (R100). -/
def writeStepCmd (pins : BitVec 2) (a : Address) : EngineCmd :=
  { kind := .write, run := false, discard := false, addr := a, pins := pins }

/-- The Engine command READ.RUN stands for (R119); `arg` is 0. -/
def readRunCmd (a : Address) : EngineCmd :=
  { kind := .read, run := true, discard := false, addr := a, pins := 0 }

/-- The Engine command READ.STEP stands for (R118); `arg` is 0. -/
def readStepCmd (a : Address) : EngineCmd :=
  { kind := .read, run := false, discard := false, addr := a, pins := 0 }

/-- The Engine command ISCONN stands for (R120): READ.RUN with `discard` 1. -/
def isConnCmd (a : Address) : EngineCmd :=
  { kind := .read, run := true, discard := true, addr := a, pins := 0 }

/-- WRITE.RUN (R101). -/
def execWriteRun (pins : BitVec 2) (a : Address) (s : State) : Host.Outcome State Fault Refusal :=
  .next (runCommand (engineGo 9 (writeRunCmd pins a) s))

/-- WRITE.STEP (R100). -/
def execWriteStep (pins : BitVec 2) (a : Address) (s : State) : Host.Outcome State Fault Refusal :=
  .next (runCommand (engineGo 9 (writeStepCmd pins a) s))

/-- READ.RUN (R119). -/
def execReadRun (a : Address) (s : State) : Host.Outcome State Fault Refusal :=
  .next (runCommand (engineGo 9 (readRunCmd a) s))

/-- READ.STEP (R118). -/
def execReadStep (a : Address) (s : State) : Host.Outcome State Fault Refusal :=
  .next (runCommand (engineGo 9 (readStepCmd a) s))

/-- ISCONN (R120). -/
def execIsConn (a : Address) (s : State) : Host.Outcome State Fault Refusal :=
  .next (runCommand (engineGo 9 (isConnCmd a) s))

end Sys2Proof.Machine
end

