-- ==== Sys2Proof/Machine/System.lean ====
section
/-! DEFINITION. The system commands NOP and GETSTAT and the answer to a reserved opcode (spec/43_system.md R130 to R132). -/

namespace Sys2Proof.Machine

/-- NOP (R130). -/
def execNop (s : State) : Host.Outcome State Fault Refusal :=
  .next (s.respond (answered true 0))

/-- GETSTAT (R131): it clears nothing. -/
def execGetStat (s : State) : Host.Outcome State Fault Refusal :=
  .next (s.respond (answered true s.statusByte))

/-- A reserved opcode: cause ILLEGAL_COMMAND, no abort, nothing else changed (R132, R145). -/
def illegalCommand (s : State) : Host.Outcome State Fault Refusal :=
  .next (s.respond { done := true, ok := false, cause := .illegalCommand, data := 0, raddr := 0 })

end Sys2Proof.Machine
end

