-- ==== Sys2Proof/Machine/Dispatch.lean ====
section
/-! DEFINITION. The meaning of each command, one arm per constructor of `Instr`. -/

namespace Sys2Proof.Machine

def exec (i : Instr) (s : State) : Host.Outcome State Fault Refusal :=
  match i with
  | .nop => Sys2Proof.Machine.execNop s
  | .scan => Sys2Proof.Machine.execScan s
  | .addrIdx index => Sys2Proof.Machine.execAddrIdx index s
  | .isValid a => Sys2Proof.Machine.execIsValid a s
  | .isFamily a => Sys2Proof.Machine.execIsFamily a s
  | .getCount => Sys2Proof.Machine.execGetCount s
  | .getFCount => Sys2Proof.Machine.execGetFCount s
  | .getPara => Sys2Proof.Machine.execGetPara s
  | .getStat => Sys2Proof.Machine.execGetStat s
  | .writeRun pins a => Sys2Proof.Machine.execWriteRun pins a s
  | .writeStep pins a => Sys2Proof.Machine.execWriteStep pins a s
  | .readRun a => Sys2Proof.Machine.execReadRun a s
  | .readStep a => Sys2Proof.Machine.execReadStep a s
  | .isConn a => Sys2Proof.Machine.execIsConn a s

end Sys2Proof.Machine
end

