-- ==== Sys2Proof/Machine/Fetch.lean ====
section
/-! DEFINITION. What the machine does next: go on with the command in progress, or take the host's next input (spec/20_memory.md
R44, R47, spec/30_encoding.md R50). -/

namespace Sys2Proof.Machine

/-- What the next step is about. -/
inductive Fetched where
  /-- A command is in progress and no answer and no `rst` will come (R171). -/
  | stuck
  /-- A command in progress goes on; the state it reaches. -/
  | resumed (s : State)
  /-- No command is in progress and the host presents nothing: nothing changes (R133). -/
  | idle
  /-- `rst` while no command is in progress; the state after it. -/
  | wasReset (s : State)
  /-- A command is accepted; the state in which it begins. -/
  | command (i : Instr) (s : State)
  /-- A word with a reserved opcode is accepted. -/
  | reserved (s : State)

/-- The next thing the machine does. A command word is taken whole when it is accepted (R47), and is accepted only when no command
is in progress (R50). -/
def fetch (s : State) : Fetched :=
  match s.activity, s.answers, s.host with
  | some _, [], _ => .stuck
  | some _, _ :: _, _ => .resumed (runCommand s)
  | none, _, [] => .idle
  | none, _, .rst u :: rest => .wasReset (State.takeReset u { s with host := rest })
  | none, _, .command w :: rest =>
    match decode w with
    | .ok i => .command i { s with host := rest }
    | .error _ => .reserved { s with host := rest }

/-- The state in which the word `w` is the next the machine takes: no command is in progress and the host presents `w` first. -/
def State.present (w : PortWord) (s : State) : State :=
  { s with activity := none, host := .command w :: s.host }

end Sys2Proof.Machine
end

