-- ==== Sys2Proof/Machine/Step.lean ====
section
/-! DEFINITION. One step of the machine: one command from its acceptance to its response or to where the provider's inputs end
(spec/30_encoding.md R50). -/

namespace Sys2Proof.Machine

/-- One step. -/
def step (s : State) : Host.Outcome State Fault Refusal :=
  match fetch s with
  | .stuck => .fault .noProviderAnswer
  | .resumed s' => .next s'
  | .idle => .next s
  | .wasReset s' => .next s'
  | .command i s' => exec i s'
  | .reserved s' => illegalCommand s'

/-- A table row's word presented by the host to a block with no command in progress, before the words already there. -/
def State.withFetchWord (s : State) (nbits w : Nat) : State := s.present (tableWord nbits w)

end Sys2Proof.Machine
end

