-- ==== Sys2Proof/Safety.lean ====
section
/-! DEFINITION. The terms the statements use: the invariants (spec/10_state.md R21), what a call and a response add to a state, the
end of a run (R175), the host that polls, and the provider that plays an enumeration. -/

namespace Sys2Proof

/-- The five Engine commands (R22). -/
def Instr.isEngine (i : Instr) : Bool :=
  match i with
  | .nop | .scan | .addrIdx _ | .isValid _ | .isFamily _ | .getCount | .getFCount | .getPara | .getStat => false
  | .writeRun _ _ | .writeStep _ _ | .readRun _ | .readStep _ | .isConn _ => true

/-- The commands that make provider calls (R30). -/
def Instr.usesBus (i : Instr) : Bool :=
  match i with
  | .nop | .isValid _ | .isFamily _ | .getCount | .getFCount | .getPara | .getStat => false
  | .scan | .addrIdx _ | .writeRun _ _ | .writeStep _ _ | .readRun _ | .readStep _ | .isConn _ => true

end Sys2Proof

namespace Sys2Proof.Machine

/-- R21 (a), (b), (c). -/
abbrev State.Inv (s : State) : Prop :=
  s.stage.toNat ≤ 8 ∧ (s.stage ≠ 0#4 → s.lastError = false) ∧ s.familyDeviceCount.toNat ≤ s.deviceCount.toNat

/-- A command in progress has a request outstanding on the provider port (R50). -/
abbrev State.Waits (s : State) : Prop := s.cmdReady = false → s.requestPort.isSome = true

/-- No `rst` comes while a request is outstanding: every input of the list is an answer. -/
def onlyAnswers (xs : List BusInput) : Bool :=
  xs.all fun x =>
    match x with
    | .answer _ => true
    | .rst _ => false

/-- `s` after one answered provider call: the event is in the trace, the answer is used up. -/
def State.called (s : State) (rest : List BusInput) (e : Event) : State :=
  { s with answers := rest, trace := s.trace ++ [e] }

/-- `s` after the response `w`: the command has ended. -/
def State.responded (s : State) (w : PortWord) : State :=
  { s with activity := none, responses := s.responses ++ [w] }

/-- A response word without an address (R55). -/
def reply (done ok : Bool) (cause : Cause) (data : Byte) : PortWord :=
  Response.word { done := done, ok := ok, cause := cause, data := data, raddr := 0 }

/-- The `data` of a read command's response: bits 1:0 `PINS`, bits 7:2 zero (R57). -/
def State.pinsByte (s : State) : Byte := s.PINS.setWidth 8

/-- The three Directory registers of `d` put in the place of those of `s`. -/
def State.withDirectoryOf (s d : State) : State :=
  { s with
    deviceCount := d.deviceCount, familyDeviceCount := d.familyDeviceCount, parasiticPowerFlag := d.parasiticPowerFlag }

/-- The six Engine registers of `e` put in the place of those of `s`. -/
def State.withEngineOf (s e : State) : State :=
  { s with
    stage := e.stage, lastError := e.lastError, pend0 := e.pend0, pend1 := e.pend1, wstate := e.wstate, PINS := e.PINS }

/-- The values byte 0 of a response word takes (R57): not complete, successful, false or not found, and the five causes reported. -/
def responseBytes0 : List Byte := [0x00, 0x03, 0x01, 0x11, 0x21, 0x31, 0x51, 0x61]

/-- Commands issued one after the other, each begun when the one before has ended; `none` where one stops or waits. -/
def execAll : List Instr → State → Option State
  | [], s => some s
  | i :: is, s =>
    match exec i s with
    | .next t => if t.cmdReady then execAll is t else none
    | .fault _ => none
    | .refused _ => none

/-- The `done` bit of the last response (R55). -/
def State.lastDone (s : State) : Bool :=
  match s.responses.getLast? with
  | some w => w.getLsbD 0
  | none => false

/-- A host that issues `i` until its response says `done`, at most `n` times ("step until terminal", R101). -/
def pollUntilDone (i : Instr) : Nat → State → State
  | 0, s => s
  | n + 1, s =>
    match exec i s with
    | .next t => if t.lastDone then t else pollUntilDone i n t
    | .fault _ => s
    | .refused _ => s

/-- A provider answer of one flag. -/
def flagAnswer (b : Bool) : BusInput := .answer { flag := b, byte := 0, addr := 0 }

/-- A search that found `a`. -/
def hitAnswer (a : Address) : BusInput := .answer { flag := true, byte := 0, addr := a }

/-- The answers a provider gives to SCAN after its `resetSearch` and before the `search` that finds nothing, for the hits `hits`, each
with the power mode its device reports when asked; `seen` says whether the flag is set already (R72). -/
def scanAnswers (cfg : Config) : Bool → List (Address × Bool) → List BusInput
  | _, [] => []
  | seen, (a, p) :: hits =>
    if validAddress cfg a && !seen then hitAnswer a :: flagAnswer p :: scanAnswers cfg p hits
    else hitAnswer a :: scanAnswers cfg seen hits

/-- The events of SCAN after its `resetSearch`, for the same hits (R72). -/
def scanEvents (cfg : Config) : Bool → List (Address × Bool) → List Event
  | _, [] => [.search none]
  | seen, (a, p) :: hits =>
    if validAddress cfg a && !seen then .search (some a) :: .powerMode a p :: scanEvents cfg p hits
    else .search (some a) :: scanEvents cfg seen hits

/-- A run has ended: nothing is in progress and the host presents nothing more (R175). -/
abbrev State.RunEnded (s : State) : Prop := s.cmdReady = true ∧ s.host = []

end Sys2Proof.Machine
end

