-- ==== Sys2Proof/Certificates/Slice0/Obligations.lean ====
section
/-! DEFINITION. The statements about OWSEQ, for the provers. Every one is about every state, register value and configuration
(log entry 2) unless it says otherwise; the provider's answers are the list `answers` of the state (log entry 4). -/

open Sys2Proof Sys2Proof.Machine

/-! ## Words -/

/-- Decoding the encoded word of a well-formed command gives the command back (R51 to R53). -/
def Obligations.DecodeOfEncodeIsTheCommand : Prop :=
  ∀ i : Instr, i.wellFormed = true → decode (encode i) = .ok i

/-- A word that decodes, decodes to a well-formed command, whose own word has the same opcode and decodes the same (R53, R52). -/
def Obligations.DecodedCommandIsWellFormedAndReencodes : Prop :=
  ∀ (w : PortWord) (i : Instr), decode w = .ok i →
    i.wellFormed = true ∧ (encode i).extractLsb' 0 8 = w.extractLsb' 0 8 ∧ decode (encode i) = decode w

/-- R52: where each operand stands in the word, and that a field a format does not use is ignored. -/
def Obligations.OperandsAreTheWordsFields : Prop :=
  (∀ w : PortWord, w.extractLsb' 0 8 = 0x02 → decode w = .ok (.addrIdx (w.extractLsb' 8 8).toNat)) ∧
  (∀ w : PortWord, w.extractLsb' 0 8 = 0x10 ∨ w.extractLsb' 0 8 = 0x11 → ∃ (pins : BitVec 2) (a : Address),
    decode w = .ok (if w.extractLsb' 0 8 = 0x10 then .writeRun pins a else .writeStep pins a) ∧
    pins.getLsbD 0 = w.getLsbD 8 ∧ pins.getLsbD 1 = w.getLsbD 9 ∧
    ∀ k < 8, addressByte a k = w.extractLsb' (16 + 8 * k) 8) ∧
  (∀ w : PortWord, w.extractLsb' 0 8 ∈ [0x03, 0x04, 0x12, 0x13, 0x14] → ∃ a : Address,
    decode w = .ok (
      if w.extractLsb' 0 8 = 0x03 then .isValid a else if w.extractLsb' 0 8 = 0x04 then .isFamily a
      else if w.extractLsb' 0 8 = 0x12 then .readRun a else if w.extractLsb' 0 8 = 0x13 then .readStep a else .isConn a) ∧
    ∀ k < 8, addressByte a k = w.extractLsb' (16 + 8 * k) 8) ∧
  (∀ w w' : PortWord, w.extractLsb' 0 8 = w'.extractLsb' 0 8 →
    (w.extractLsb' 0 8 ∈ [0x00, 0x01, 0x05, 0x06, 0x07, 0x08] → decode w = decode w') ∧
    (w.extractLsb' 0 8 = 0x02 → w.extractLsb' 8 8 = w'.extractLsb' 8 8 → decode w = decode w') ∧
    (w.extractLsb' 0 8 ∈ [0x03, 0x04, 0x12, 0x13, 0x14] → w.extractLsb' 16 64 = w'.extractLsb' 16 64 → decode w = decode w') ∧
    (w.extractLsb' 0 8 ∈ [0x10, 0x11] → w.extractLsb' 8 2 = w'.extractLsb' 8 2 → w.extractLsb' 16 64 = w'.extractLsb' 16 64 →
      decode w = decode w'))

/-- R54 and R132: the opcodes that decode to nothing are the 242 outside the table of R53, and the block answers a word with one of
them with ILLEGAL_COMMAND, and changes nothing else. -/
def Obligations.ReservedOpcodesAnswerIllegalCommand : Prop :=
  (∀ w : PortWord, (∃ e, decode w = .error e) ↔
    (w.extractLsb' 0 8).toNat ∈ List.range' 0x09 7 ++ List.range' 0x15 235) ∧
  (∀ (s : State) (w : PortWord) (rest : List HostInput), s.activity = none → s.host = .command w :: rest →
    (∃ e, decode w = .error e) →
      step s = .next (State.responded { s with host := rest } (reply true false .illegalCommand 0))) ∧
  reply true false .illegalCommand 0 = wordOfBytes [0x51]

/-- Words written out from R51 and R53, one or more for each family, decode to what they stand for (R64 and the vectors). -/
def Obligations.WordsWrittenOutDecode : Prop :=
  decode (wordOfBytes [0x00, 0xFF, 0xFF, 0xFF, 0xFF, 0xFF, 0xFF, 0xFF, 0xFF, 0xFF]) = .ok .nop ∧
  decode (wordOfBytes [0x01]) = .ok .scan ∧
  decode (wordOfBytes [0x02, 0x02]) = .ok (.addrIdx 2) ∧
  decode (wordOfBytes [0x03, 0x00, 0x3A, 0x01, 0x02, 0x03, 0x04, 0x05, 0x06, 0x1F]) = .ok (.isValid 0x1F0605040302013A) ∧
  decode (wordOfBytes [0x11, 0x01, 0x3A, 0x01, 0x02, 0x03, 0x04, 0x05, 0x06, 0x1F]) = .ok (.writeStep 0b01 0x1F0605040302013A) ∧
  decode (wordOfBytes [0x10, 0xFD, 0x3A, 0x01, 0x02, 0x03, 0x04, 0x05, 0x06, 0x1F]) = .ok (.writeRun 0b01 0x1F0605040302013A) ∧
  decode (wordOfBytes [0x13, 0x00, 0x3A, 0x01, 0x02, 0x03, 0x04, 0x05, 0x06, 0x1F]) = .ok (.readStep 0x1F0605040302013A)

/-- R55: the places of the fields of a response word; R56 and R140: the seven cause codes. -/
def Obligations.ResponseWordFields : Prop :=
  (∀ r : Response, r.word.getLsbD 0 = r.done ∧ r.word.getLsbD 1 = r.ok ∧ r.word.extractLsb' 2 2 = 0 ∧
    r.word.extractLsb' 4 3 = r.cause.code ∧ r.word.getLsbD 7 = false ∧ r.word.extractLsb' 8 8 = r.data ∧
    r.word.extractLsb' 16 64 = r.raddr ∧ ∀ k < 8, r.word.extractLsb' (16 + 8 * k) 8 = addressByte r.raddr k) ∧
  Cause.noError.code = 0 ∧ Cause.busPresence.code = 1 ∧ Cause.selection.code = 2 ∧ Cause.verify.code = 3 ∧
  Cause.checksum.code = 4 ∧ Cause.illegalCommand.code = 5 ∧ Cause.stageRange.code = 6

/-- R58: what each Engine step and each directory walk puts on the request channel while it waits. -/
def Obligations.RequestChannelFields : Prop :=
  (∀ (c : EngineCmd) (s : State), s.activity = some (.engine c) →
    (s.stage = 0 → s.requestPort = some { op := 0, imm := false, byte := 0, addr := 0 }) ∧
    (s.stage = 1 → s.requestPort = some { op := 3, imm := s.cfg.selectImmediate, byte := 0, addr := c.addr }) ∧
    (s.stage = 2 → s.requestPort = some { op := 4, imm := false, addr := 0
                                          byte := if c.kind = .write then s.cfg.cmdAccessWrite else s.cfg.cmdAccessRead }) ∧
    (c.kind = .write → s.stage = 3 →
      s.requestPort = some { op := 4, imm := false, byte := 0xFF &&& ~~~(c.pins.setWidth 8), addr := 0 }) ∧
    (c.kind = .write → s.stage = 4 → s.requestPort = some { op := 4, imm := false, byte := ~~~s.wstate, addr := 0 }) ∧
    (c.kind = .write → s.stage = 5 → s.requestPort = some { op := 5, imm := false, byte := 0, addr := 0 }) ∧
    (c.kind = .write → s.stage = 6 → s.pend0 = s.cfg.ackSuccess →
      s.requestPort = some { op := 5, imm := false, byte := 0, addr := 0 }) ∧
    (c.kind = .write → s.stage = 7 → s.requestPort = some { op := 0, imm := false, byte := 0, addr := 0 }) ∧
    (c.kind = .read → s.stage = 3 → s.requestPort = some { op := 5, imm := false, byte := 0, addr := 0 }) ∧
    (c.kind = .read → s.stage = 4 → s.requestPort = some { op := 0, imm := false, byte := 0, addr := 0 })) ∧
  (∀ (s : State) (index depth : Nat) (a : Address),
    (s.activity = some .scanReset ∨ s.activity = some (.walkReset index) →
      s.requestPort = some { op := 1, imm := false, byte := 0, addr := 0 }) ∧
    (s.activity = some .scanSearch ∨ s.activity = some (.walkSearch index depth) →
      s.requestPort = some { op := 2, imm := false, byte := 0, addr := 0 }) ∧
    (s.activity = some (.scanPower a) → s.requestPort = some { op := 6, imm := false, byte := 0, addr := a })) ∧
  (∀ s : State, s.activity = none → s.requestPort = none)

/-! ## The machine's step -/

/-- A step of a block with no command in progress runs the command the presented word decodes to, the word taken away (R50, R53). -/
def Obligations.StepRunsTheDecodedCommand : Prop :=
  ∀ (s : State) (w : PortWord) (rest : List HostInput) (i : Instr),
    s.activity = none → s.host = .command w :: rest → decode w = .ok i → step s = exec i { s with host := rest }

/-- With no command in progress and nothing presented, nothing changes (R133, last sentence; R160). That such a block takes a step is
the model's choice (log entry 6). -/
def Obligations.IdleBlockChangesNothing : Prop :=
  ∀ s : State, s.activity = none → s.host = [] → step s = .next s

/-- A step stops exactly where a request is outstanding and no answer and no `rst` will come (R171, U11), and is never refused. The
fault is the model's form of the stuck block (log entry 4). -/
def Obligations.OnlyAnUnansweredRequestStopsTheBlock : Prop :=
  ∀ s : State,
    (step s = .fault .noProviderAnswer ↔ s.cmdReady = false ∧ s.answers = []) ∧
    (s.cmdReady = true ∨ s.answers ≠ [] → ∃ t, step s = .next t)

/-- While a command is in progress the host's words wait, and a step takes at most one of them (R50, R47). The list is
the model's form of the host (log entry 6). -/
def Obligations.HostWordsWaitWhileACommandIsInProgress : Prop :=
  ∀ s t : State, step s = .next t →
    (s.cmdReady = false → t.host = s.host) ∧ (s.cmdReady = true → t.host = s.host.drop 1)

/-- R160 and R161: what `rst` leaves, whether a command is in progress or not; the unspecified registers hold any value. That `rst`
comes as an input is the model's choice (log entry 5). -/
def Obligations.ResetDropsTheCommandAndClearsTheBlock : Prop :=
  (∀ (cfg : Config) (u : PowerUp),
    (State.powerOn cfg u).deviceCount = 0 ∧ (State.powerOn cfg u).familyDeviceCount = 0 ∧
    (State.powerOn cfg u).parasiticPowerFlag = false ∧ (State.powerOn cfg u).stage = 0 ∧
    (State.powerOn cfg u).lastError = false ∧ (State.powerOn cfg u).cmdReady = true ∧
    (State.powerOn cfg u).requestPort = none ∧ step (State.powerOn cfg u) = .next (State.powerOn cfg u)) ∧
  (∀ (s : State) (u : PowerUp) (rest : List HostInput), s.activity = none → s.host = .rst u :: rest →
    step s = .next { State.powerOn s.cfg u with
      host := rest, answers := s.answers, trace := s.trace, responses := s.responses }) ∧
  (∀ (s : State) (u : PowerUp) (rest : List BusInput), s.cmdReady = false → s.answers = .rst u :: rest →
    step s = .next { State.powerOn s.cfg u with
      host := s.host, answers := rest, trace := s.trace, responses := s.responses })

/-- The block waits for an answer as long as it takes: a command whose answers come later goes on as if they had been there (R42,
R44, R171; log entry 4). -/
def Obligations.ACommandThatWaitedGoesOnTheSame : Prop :=
  ∀ (i : Instr) (s t : State) (xs ys : List BusInput),
    exec i { s with answers := xs } = .next t → t.cmdReady = false → ys ≠ [] →
      exec i { s with answers := xs ++ ys } = step { t with answers := ys }

/-- R59: which field of an answer the block reads for each primitive; every other field is ignored. -/
def Obligations.OnlyTheNamedAnswerFieldsAreRead : Prop :=
  ∀ (act : Activity) (s : State) (p q : Answer),
    (act.request s = some .reset → p.flag = q.flag → act.onAnswer p s = act.onAnswer q s) ∧
    (act.request s = some .resetSearch → act.onAnswer p s = act.onAnswer q s) ∧
    (act.request s = some .search → p.flag = q.flag → (p.flag = true → p.addr = q.addr) →
      act.onAnswer p s = act.onAnswer q s) ∧
    (∀ a imm, act.request s = some (.select a imm) → p.flag = q.flag → act.onAnswer p s = act.onAnswer q s) ∧
    (∀ b, act.request s = some (.writeByte b) → act.onAnswer p s = act.onAnswer q s) ∧
    (act.request s = some .readByte → p.byte = q.byte → act.onAnswer p s = act.onAnswer q s) ∧
    (∀ a, act.request s = some (.powerMode a) → p.flag = q.flag → act.onAnswer p s = act.onAnswer q s)

/-! ## Commands that make no provider call -/

/-- R130: NOP answers `03` and nine zero bytes and changes nothing; the all-zero word is NOP. -/
def Obligations.NopAnswersAndChangesNothing : Prop :=
  (∀ s : State, exec .nop s = .next (s.responded (reply true true .noError 0))) ∧
  reply true true .noError 0 = wordOfBytes [0x03] ∧ decode 0 = .ok .nop

/-- R70 and R73: ISVALID answers whether the checksum of bytes 0 to 6 is byte 7, and changes nothing; with the default parameters
the all-zero address and address A are valid and A with byte 7 `1E` is not. -/
def Obligations.IsValidComparesTheChecksum : Prop :=
  (∀ (a : Address) (s : State), exec (.isValid a) s = .next (s.responded (reply true
    (decide (checksum8 s.cfg [addressByte a 0, addressByte a 1, addressByte a 2, addressByte a 3, addressByte a 4, addressByte a 5,
      addressByte a 6] = addressByte a 7)) .noError 0))) ∧
  exec (.isValid 0) State.reset = .next (State.reset.responded (wordOfBytes [0x03])) ∧
  exec (.isValid 0x1F0605040302013A) State.reset = .next (State.reset.responded (wordOfBytes [0x03])) ∧
  exec (.isValid 0x1E0605040302013A) State.reset = .next (State.reset.responded (wordOfBytes [0x01])) ∧
  decode (wordOfBytes [0x03, 0x00, 0x3A, 0x01, 0x02, 0x03, 0x04, 0x05, 0x06, 0x1F]) = .ok (.isValid 0x1F0605040302013A)

/-- R74: ISFAMILY answers whether byte 0 is `FAMILY_CODE`, whatever the checksum, and changes nothing. -/
def Obligations.IsFamilyComparesByteZero : Prop :=
  (∀ (a : Address) (s : State), exec (.isFamily a) s = .next (s.responded (reply true
    (decide (a.extractLsb' 0 8 = s.cfg.familyCode)) .noError 0))) ∧
  exec (.isFamily 0x3A) State.reset = .next (State.reset.responded (wordOfBytes [0x03])) ∧
  exec (.isFamily 0x3400000F1E64FF28) State.reset = .next (State.reset.responded (wordOfBytes [0x01])) ∧
  decode (wordOfBytes [0x04, 0x00, 0x28, 0xFF, 0x64, 0x1E, 0x0F, 0x00, 0x00, 0x34]) = .ok (.isFamily 0x3400000F1E64FF28)

/-- R76: GETCOUNT answers `deviceCount` and changes nothing; it is 0 before the first SCAN after reset. -/
def Obligations.GetCountAnswersDeviceCount : Prop :=
  (∀ s : State, exec .getCount s = .next (s.responded (reply true true .noError s.deviceCount))) ∧
  (∀ (cfg : Config) (u : PowerUp), exec .getCount (State.powerOn cfg u) =
    .next ((State.powerOn cfg u).responded (wordOfBytes [0x03, 0x00]))) ∧
  decode 0x05 = .ok .getCount

/-- R77: GETFCOUNT answers `familyDeviceCount` and changes nothing. -/
def Obligations.GetFCountAnswersFamilyDeviceCount : Prop :=
  (∀ s : State, exec .getFCount s = .next (s.responded (reply true true .noError s.familyDeviceCount))) ∧
  decode 0x06 = .ok .getFCount

/-- R78: GETPARA answers the flag in `data`, not in `ok`, and changes nothing. -/
def Obligations.GetParaAnswersTheFlagInData : Prop :=
  (∀ s : State, exec .getPara s =
    .next (s.responded (reply true true .noError (if s.parasiticPowerFlag then 0x01 else 0x00)))) ∧
  decode 0x07 = .ok .getPara

/-- R131: GETSTAT answers `lastError` in bit 0, zeros in bits 3:1 and `stage` in bits 7:4, and changes nothing; where R21 holds the
value is 00, 01 or 10, 20, ..., 80. -/
def Obligations.GetStatAnswersStageAndLastError : Prop :=
  (∀ s : State, ∃ data : Byte, exec .getStat s = .next (s.responded (reply true true .noError data)) ∧
    data.getLsbD 0 = s.lastError ∧ data.extractLsb' 1 3 = 0 ∧ data.extractLsb' 4 4 = s.stage ∧
    (s.Inv → data ∈ [0x00, 0x01, 0x10, 0x20, 0x30, 0x40, 0x50, 0x60, 0x70, 0x80])) ∧
  decode 0x08 = .ok .getStat

/-! ## The Device Directory -/

/-- R72 and R79: SCAN of any finite enumeration. The counts are those of the valid hits and of those among them of the target
family, saturated at 255; the flag is set if a valid device asked reports parasitic power, and no device is asked after that; the
trace is the walk, one `search` for each hit and one more, a `powerMode` after a valid hit while the flag is 0; the response is
success; nothing else changes. The answer to `resetSearch`, and the byte and the address of the `search` that finds nothing, are
anything. -/
def Obligations.ScanCountsTheValidHits : Prop :=
  ∀ (s : State) (hits : List (Address × Bool)) (r e : Answer) (rest : List BusInput), e.flag = false →
    exec .scan { s with answers := .answer r :: scanAnswers s.cfg false hits ++ .answer e :: rest } =
      .next (State.responded
        { s with
          answers := rest
          deviceCount := BitVec.ofNat 8 (min 255 (hits.countP fun h => validAddress s.cfg h.1))
          familyDeviceCount := BitVec.ofNat 8
            (min 255 (hits.countP fun h => validAddress s.cfg h.1 && (h.1.extractLsb' 0 8 == s.cfg.familyCode)))
          parasiticPowerFlag := hits.any fun h => validAddress s.cfg h.1 && h.2
          trace := s.trace ++ .resetSearch :: scanEvents s.cfg false hits }
        (reply true true .noError 0))

/-- R75: ADDRIDX of any enumeration with more than `index` hits answers the hit at position `index` if and only if that hit is
valid, after `index + 1` searches; the hits before it are not validated; no register changes. -/
def Obligations.AddressAtIndexIsTheHitAtThatPosition : Prop :=
  ∀ (s : State) (before : List Address) (a : Address) (r : Answer) (rest : List BusInput),
    exec (.addrIdx before.length) { s with answers := .answer r :: before.map hitAnswer ++ hitAnswer a :: rest } =
      .next (State.responded
        { s with
          answers := rest
          trace := s.trace ++ .resetSearch :: (before ++ [a]).map fun x => .search (some x) }
        (if validAddress s.cfg a then
          Response.word { done := true, ok := true, cause := .noError, data := 0, raddr := a }
        else reply true false .noError 0))

/-- R75: ADDRIDX of an enumeration with no more than `index` hits answers not found, without an error, after one search more than
there are hits; no register changes. -/
def Obligations.AddressAtIndexPastTheEndIsNotFound : Prop :=
  ∀ (s : State) (index : Nat) (hits : List Address) (r e : Answer) (rest : List BusInput),
    hits.length ≤ index → e.flag = false →
      exec (.addrIdx index) { s with answers := .answer r :: hits.map hitAnswer ++ .answer e :: rest } =
        .next (State.responded
          { s with
            answers := rest
            trace := s.trace ++ .resetSearch :: (hits.map (fun x => Event.search (some x)) ++ [Event.search none]) }
          (reply true false .noError 0))

/-! ## The steps of the write sequence. Each says what the step does in WRITE.STEP and that WRITE.RUN goes on after it. -/

/-- R91: write step 1. -/
def Obligations.WriteStepOneResetsTheBus : Prop :=
  ∀ (pins : BitVec 2) (a : Address) (s : State) (p : Answer) (rest : List BusInput),
    s.stage = 0 → s.answers = .answer p :: rest →
      (p.flag = true →
        let s1 := { s.called rest (.reset true) with lastError := false, stage := 1 }
        exec (.writeStep pins a) s = .next (s1.responded (reply false false .noError 0)) ∧
        exec (.writeRun pins a) s = exec (.writeRun pins a) s1) ∧
      (p.flag = false →
        let s1 := { s.called rest (.reset false) with lastError := true, stage := 0 }
        exec (.writeStep pins a) s = .next (s1.responded (reply true false .busPresence 0)) ∧
        exec (.writeRun pins a) s = .next (s1.responded (reply true false .busPresence 0)))

/-- R92: write step 2. The address is that of this command, and is not validated. -/
def Obligations.WriteStepTwoSelectsTheDevice : Prop :=
  ∀ (pins : BitVec 2) (a : Address) (s : State) (ok : Answer) (rest : List BusInput),
    s.stage = 1 → s.answers = .answer ok :: rest →
      (ok.flag = true →
        let s1 := { s.called rest (.select a s.cfg.selectImmediate true) with stage := 2 }
        exec (.writeStep pins a) s = .next (s1.responded (reply false false .noError 0)) ∧
        exec (.writeRun pins a) s = exec (.writeRun pins a) s1) ∧
      (ok.flag = false →
        let s1 := { s.called rest (.select a s.cfg.selectImmediate false) with lastError := true, stage := 0 }
        exec (.writeStep pins a) s = .next (s1.responded (reply true false .selection 0)) ∧
        exec (.writeRun pins a) s = .next (s1.responded (reply true false .selection 0)))

/-- R93: write step 3. -/
def Obligations.WriteStepThreeSendsTheAccessWriteByte : Prop :=
  ∀ (pins : BitVec 2) (a : Address) (s : State) (x : Answer) (rest : List BusInput),
    s.stage = 2 → s.answers = .answer x :: rest →
      let s1 := { s.called rest (.writeByte s.cfg.cmdAccessWrite) with stage := 3 }
      exec (.writeStep pins a) s = .next (s1.responded (reply false false .noError 0)) ∧
      exec (.writeRun pins a) s = exec (.writeRun pins a) s1

/-- R94 (and the bits of R62): write step 4. All bits are set but bit 0 when pin 0 is HIGH and bit 1 when pin 1 is HIGH. -/
def Obligations.WriteStepFourSendsTheStateByte : Prop :=
  ∀ (pins : BitVec 2) (a : Address) (s : State) (x : Answer) (rest : List BusInput),
    s.stage = 3 → s.answers = .answer x :: rest → ∃ w : Byte,
      w.getLsbD 0 = !pins.getLsbD 0 ∧ w.getLsbD 1 = !pins.getLsbD 1 ∧ w.extractLsb' 2 6 = 0b111111 ∧
      let s1 := { s.called rest (.writeByte w) with wstate := w, stage := 4 }
      exec (.writeStep pins a) s = .next (s1.responded (reply false false .noError 0)) ∧
      exec (.writeRun pins a) s = exec (.writeRun pins a) s1

/-- R95: write step 5. The byte complemented is the register `wstate`. -/
def Obligations.WriteStepFiveSendsTheComplement : Prop :=
  ∀ (pins : BitVec 2) (a : Address) (s : State) (x : Answer) (rest : List BusInput),
    s.stage = 4 → s.answers = .answer x :: rest →
      let s1 := { s.called rest (.writeByte (~~~s.wstate)) with stage := 5 }
      exec (.writeStep pins a) s = .next (s1.responded (reply false false .noError 0)) ∧
      exec (.writeRun pins a) s = exec (.writeRun pins a) s1

/-- R96: write step 6. -/
def Obligations.WriteStepSixReadsTheAcknowledgment : Prop :=
  ∀ (pins : BitVec 2) (a : Address) (s : State) (b : Answer) (rest : List BusInput),
    s.stage = 5 → s.answers = .answer b :: rest →
      let s1 := { s.called rest (.readByte b.byte) with pend0 := b.byte, stage := 6 }
      exec (.writeStep pins a) s = .next (s1.responded (reply false false .noError 0)) ∧
      exec (.writeRun pins a) s = exec (.writeRun pins a) s1

/-- R97: write step 7. On a match a second byte is read and kept; on a mismatch the sequence aborts with no provider call. -/
def Obligations.WriteStepSevenJudgesTheAcknowledgment : Prop :=
  (∀ (pins : BitVec 2) (a : Address) (s : State) (b : Answer) (rest : List BusInput),
    s.stage = 6 → s.pend0 = s.cfg.ackSuccess → s.answers = .answer b :: rest →
      let s1 := { s.called rest (.readByte b.byte) with pend1 := b.byte, stage := 7 }
      exec (.writeStep pins a) s = .next (s1.responded (reply false false .noError 0)) ∧
      exec (.writeRun pins a) s = exec (.writeRun pins a) s1) ∧
  (∀ (pins : BitVec 2) (a : Address) (s : State), s.stage = 6 → s.pend0 ≠ s.cfg.ackSuccess →
      let s1 := { s with lastError := true, stage := 0 }
      exec (.writeStep pins a) s = .next (s1.responded (reply true false .verify 0)) ∧
      exec (.writeRun pins a) s = .next (s1.responded (reply true false .verify 0)))

/-- R98: write step 8. -/
def Obligations.WriteStepEightResetsTheBusAgain : Prop :=
  ∀ (pins : BitVec 2) (a : Address) (s : State) (p : Answer) (rest : List BusInput),
    s.stage = 7 → s.answers = .answer p :: rest →
      (p.flag = true →
        let s1 := { s.called rest (.reset true) with stage := 8 }
        exec (.writeStep pins a) s = .next (s1.responded (reply false false .noError 0)) ∧
        exec (.writeRun pins a) s = exec (.writeRun pins a) s1) ∧
      (p.flag = false →
        let s1 := { s.called rest (.reset false) with lastError := true, stage := 0 }
        exec (.writeStep pins a) s = .next (s1.responded (reply true false .busPresence 0)) ∧
        exec (.writeRun pins a) s = .next (s1.responded (reply true false .busPresence 0)))

/-- R99: write step 9. No provider call; `ok` is `1 - lastError`, and 1 where R21 holds. -/
def Obligations.WriteStepNineReturnsToIdle : Prop :=
  ∀ (pins : BitVec 2) (a : Address) (s : State), s.stage = 8 →
    let s1 := { s with stage := 0 }
    exec (.writeStep pins a) s = .next (s1.responded (reply true (!s.lastError) .noError 0)) ∧
    exec (.writeRun pins a) s = .next (s1.responded (reply true (!s.lastError) .noError 0)) ∧
    (s.Inv → exec (.writeStep pins a) s = .next (s1.responded (reply true true .noError 0)))

/-! ## The steps of the read sequence, in READ.STEP, READ.RUN and ISCONN. -/

/-- R111: read step 1. -/
def Obligations.ReadStepOneResetsTheBus : Prop :=
  ∀ (a : Address) (s : State) (p : Answer) (rest : List BusInput),
    s.stage = 0 → s.answers = .answer p :: rest →
      (p.flag = true →
        let s1 := { s.called rest (.reset true) with lastError := false, stage := 1 }
        exec (.readStep a) s = .next (s1.responded (reply false false .noError s.pinsByte)) ∧
        exec (.readRun a) s = exec (.readRun a) s1 ∧ exec (.isConn a) s = exec (.isConn a) s1) ∧
      (p.flag = false →
        let s1 := { s.called rest (.reset false) with lastError := true, stage := 0 }
        exec (.readStep a) s = .next (s1.responded (reply true false .busPresence s.pinsByte)) ∧
        exec (.readRun a) s = .next (s1.responded (reply true false .busPresence s.pinsByte)) ∧
        exec (.isConn a) s = .next (s1.responded (reply true false .busPresence 0)))

/-- R112: read step 2. -/
def Obligations.ReadStepTwoSelectsTheDevice : Prop :=
  ∀ (a : Address) (s : State) (ok : Answer) (rest : List BusInput),
    s.stage = 1 → s.answers = .answer ok :: rest →
      (ok.flag = true →
        let s1 := { s.called rest (.select a s.cfg.selectImmediate true) with stage := 2 }
        exec (.readStep a) s = .next (s1.responded (reply false false .noError s.pinsByte)) ∧
        exec (.readRun a) s = exec (.readRun a) s1 ∧ exec (.isConn a) s = exec (.isConn a) s1) ∧
      (ok.flag = false →
        let s1 := { s.called rest (.select a s.cfg.selectImmediate false) with lastError := true, stage := 0 }
        exec (.readStep a) s = .next (s1.responded (reply true false .selection s.pinsByte)) ∧
        exec (.readRun a) s = .next (s1.responded (reply true false .selection s.pinsByte)) ∧
        exec (.isConn a) s = .next (s1.responded (reply true false .selection 0)))

/-- R113: read step 3. -/
def Obligations.ReadStepThreeSendsTheAccessReadByte : Prop :=
  ∀ (a : Address) (s : State) (x : Answer) (rest : List BusInput),
    s.stage = 2 → s.answers = .answer x :: rest →
      let s1 := { s.called rest (.writeByte s.cfg.cmdAccessRead) with stage := 3 }
      exec (.readStep a) s = .next (s1.responded (reply false false .noError s.pinsByte)) ∧
      exec (.readRun a) s = exec (.readRun a) s1 ∧ exec (.isConn a) s = exec (.isConn a) s1

/-- R114: read step 4. -/
def Obligations.ReadStepFourReadsTheResultByte : Prop :=
  ∀ (a : Address) (s : State) (b : Answer) (rest : List BusInput),
    s.stage = 3 → s.answers = .answer b :: rest →
      let s1 := { s.called rest (.readByte b.byte) with pend0 := b.byte, stage := 4 }
      exec (.readStep a) s = .next (s1.responded (reply false false .noError s.pinsByte)) ∧
      exec (.readRun a) s = exec (.readRun a) s1 ∧ exec (.isConn a) s = exec (.isConn a) s1

/-- R115: read step 5. -/
def Obligations.ReadStepFiveResetsTheBusAgain : Prop :=
  ∀ (a : Address) (s : State) (p : Answer) (rest : List BusInput),
    s.stage = 4 → s.answers = .answer p :: rest →
      (p.flag = true →
        let s1 := { s.called rest (.reset true) with stage := 5 }
        exec (.readStep a) s = .next (s1.responded (reply false false .noError s.pinsByte)) ∧
        exec (.readRun a) s = exec (.readRun a) s1 ∧ exec (.isConn a) s = exec (.isConn a) s1) ∧
      (p.flag = false →
        let s1 := { s.called rest (.reset false) with lastError := true, stage := 0 }
        exec (.readStep a) s = .next (s1.responded (reply true false .busPresence s.pinsByte)) ∧
        exec (.readRun a) s = .next (s1.responded (reply true false .busPresence s.pinsByte)) ∧
        exec (.isConn a) s = .next (s1.responded (reply true false .busPresence 0)))

/-- R116: read step 6. The low nibble of the complement against the high nibble; `PINS` from the complements of the two bits, but
not for ISCONN; no provider call. -/
def Obligations.ReadStepSixValidatesAndDecodes : Prop :=
  ∀ (a : Address) (s : State), s.stage = 5 →
    ((~~~s.pend0).extractLsb' 0 4 = s.pend0.extractLsb' 4 4 → ∃ pins : BitVec 2,
      pins.getLsbD 0 = !s.pend0.getLsbD s.cfg.rdPin0Bit ∧ pins.getLsbD 1 = !s.pend0.getLsbD s.cfg.rdPin1Bit ∧
      let s1 := { s with PINS := pins, stage := 6 }
      exec (.readStep a) s = .next (s1.responded (reply false false .noError s1.pinsByte)) ∧
      exec (.readRun a) s = exec (.readRun a) s1 ∧
      exec (.isConn a) s = exec (.isConn a) { s with stage := 6 }) ∧
    ((~~~s.pend0).extractLsb' 0 4 ≠ s.pend0.extractLsb' 4 4 →
      let s1 := { s with lastError := true, stage := 0 }
      exec (.readStep a) s = .next (s1.responded (reply true false .verify s.pinsByte)) ∧
      exec (.readRun a) s = .next (s1.responded (reply true false .verify s.pinsByte)) ∧
      exec (.isConn a) s = .next (s1.responded (reply true false .verify 0)))

/-- R117: read step 7. No provider call; `ok` is `1 - lastError`, and 1 where R21 holds. -/
def Obligations.ReadStepSevenReturnsToIdle : Prop :=
  ∀ (a : Address) (s : State), s.stage = 6 →
    let s1 := { s with stage := 0 }
    exec (.readStep a) s = .next (s1.responded (reply true (!s.lastError) .noError s.pinsByte)) ∧
    exec (.readRun a) s = .next (s1.responded (reply true (!s.lastError) .noError s.pinsByte)) ∧
    exec (.isConn a) s = .next (s1.responded (reply true (!s.lastError) .noError 0)) ∧
    (s.Inv → !s.lastError)

/-! ## The Engine commands as a whole -/

/-- R146 and R147: a read command at `stage` 7 or more and a write command at `stage` 9 or more abort with STAGE_RANGE and make no
provider call. -/
def Obligations.StageOutOfRangeAborts : Prop :=
  ∀ (pins : BitVec 2) (a : Address) (s : State),
    let s1 := { s with lastError := true, stage := 0 }
    (6 < s.stage.toNat →
      exec (.readStep a) s = .next (s1.responded (reply true false .stageRange s.pinsByte)) ∧
      exec (.readRun a) s = .next (s1.responded (reply true false .stageRange s.pinsByte)) ∧
      exec (.isConn a) s = .next (s1.responded (reply true false .stageRange 0))) ∧
    (8 < s.stage.toNat →
      exec (.writeStep pins a) s = .next (s1.responded (reply true false .stageRange 0)) ∧
      exec (.writeRun pins a) s = .next (s1.responded (reply true false .stageRange 0)))

/-- R101 and R103: WRITE.RUN from idle, for any answers: the trace, the registers and the response of the sequence that is not
aborted and of each of the four aborted ones. -/
def Obligations.WriteRunFromIdle : Prop :=
  ∀ (pins : BitVec 2) (a : Address) (s : State) (p ok x3 x4 x5 b b' p' : Answer) (rest : List BusInput), s.stage = 0 →
    let w : Byte := 0xFF &&& ~~~(pins.setWidth 8)
    let imm := s.cfg.selectImmediate
    let sent : List Event := [.reset true, .select a imm true, .writeByte s.cfg.cmdAccessWrite, .writeByte w, .writeByte (~~~w),
      .readByte b.byte]
    let s0 := { s with
      answers := [.answer p, .answer ok, .answer x3, .answer x4, .answer x5, .answer b, .answer b', .answer p'] ++ rest }
    (p.flag = false →
      exec (.writeRun pins a) s0 = .next (State.responded
        { s with answers := s0.answers.drop 1, trace := s.trace ++ [.reset false], lastError := true, stage := 0 }
        (reply true false .busPresence 0))) ∧
    (p.flag = true → ok.flag = false →
      exec (.writeRun pins a) s0 = .next (State.responded
        { s with
          answers := s0.answers.drop 2, trace := s.trace ++ [.reset true, .select a imm false], lastError := true, stage := 0 }
        (reply true false .selection 0))) ∧
    (p.flag = true → ok.flag = true → b.byte ≠ s.cfg.ackSuccess →
      exec (.writeRun pins a) s0 = .next (State.responded
        { s with
          answers := s0.answers.drop 6, trace := s.trace ++ sent, wstate := w, pend0 := b.byte, lastError := true, stage := 0 }
        (reply true false .verify 0))) ∧
    (p.flag = true → ok.flag = true → b.byte = s.cfg.ackSuccess →
      exec (.writeRun pins a) s0 = .next (State.responded
        { s with
          answers := rest, trace := s.trace ++ sent ++ [.readByte b'.byte, .reset p'.flag], wstate := w, pend0 := b.byte
          pend1 := b'.byte, lastError := !p'.flag, stage := 0 }
        (if p'.flag then reply true true .noError 0 else reply true false .busPresence 0)))

/-- R119 and R121: READ.RUN from idle, for any answers: the trace, the registers and the response of the sequence that is not
aborted and of each of the four aborted ones. -/
def Obligations.ReadRunFromIdle : Prop :=
  ∀ (a : Address) (s : State) (p ok x3 b p' : Answer) (rest : List BusInput), s.stage = 0 →
    let imm := s.cfg.selectImmediate
    let s0 := { s with answers := [.answer p, .answer ok, .answer x3, .answer b, .answer p'] ++ rest }
    let trace := s.trace ++
      [.reset true, .select a imm true, .writeByte s.cfg.cmdAccessRead, .readByte b.byte, .reset p'.flag]
    (p.flag = false →
      exec (.readRun a) s0 = .next (State.responded
        { s with answers := s0.answers.drop 1, trace := s.trace ++ [.reset false], lastError := true, stage := 0 }
        (reply true false .busPresence s.pinsByte))) ∧
    (p.flag = true → ok.flag = false →
      exec (.readRun a) s0 = .next (State.responded
        { s with
          answers := s0.answers.drop 2, trace := s.trace ++ [.reset true, .select a imm false], lastError := true, stage := 0 }
        (reply true false .selection s.pinsByte))) ∧
    (p.flag = true → ok.flag = true → p'.flag = false →
      exec (.readRun a) s0 = .next (State.responded
        { s with answers := rest, trace := trace, pend0 := b.byte, lastError := true, stage := 0 }
        (reply true false .busPresence s.pinsByte))) ∧
    (p.flag = true → ok.flag = true → p'.flag = true → nibbleCheck b.byte = false →
      exec (.readRun a) s0 = .next (State.responded
        { s with answers := rest, trace := trace, pend0 := b.byte, lastError := true, stage := 0 }
        (reply true false .verify s.pinsByte))) ∧
    (p.flag = true → ok.flag = true → p'.flag = true → nibbleCheck b.byte = true →
      let pins := decodePins s.cfg b.byte
      exec (.readRun a) s0 = .next (State.responded
        { s with answers := rest, trace := trace, pend0 := b.byte, PINS := pins, lastError := false, stage := 0 }
        (reply true true .noError (pins.setWidth 8))))

/-- R101 and R119: a run-to-completion command ends, with one response that says `done`, and leaves the registers, the trace and the
rest of the answers exactly as a host that polls the single-step command with the same operands until it says `done`; from any
`stage`, at most nine polls of a write and seven of a read. -/
def Obligations.RunToCompletionIsPollingUntilDone : Prop :=
  ∀ (pins : BitVec 2) (a : Address) (s : State) (xs rest : List BusInput), onlyAnswers xs = true → s.answers = xs ++ rest →
    (xs.length = 8 → ∃ (t : State) (w : PortWord),
      exec (.writeRun pins a) s = .next t ∧ t.cmdReady = true ∧ w.getLsbD 0 = true ∧ t.responses = s.responses ++ [w] ∧
      (pollUntilDone (.writeStep pins a) 9 s).responses.getLast? = some w ∧
      { pollUntilDone (.writeStep pins a) 9 s with responses := t.responses } = t) ∧
    (xs.length = 5 → ∃ (t : State) (w : PortWord),
      exec (.readRun a) s = .next t ∧ t.cmdReady = true ∧ w.getLsbD 0 = true ∧ t.responses = s.responses ++ [w] ∧
      (pollUntilDone (.readStep a) 7 s).responses.getLast? = some w ∧
      { pollUntilDone (.readStep a) 7 s with responses := t.responses } = t)

/-- R100: nine WRITE.STEP calls on a bus where every step passes: calls 1 to 8 take `stage` from 0 to 8 and answer `00`, call 9
takes it to 0 and answers `03`. -/
def Obligations.NinePollingCallsWrite : Prop :=
  ∀ (pins : BitVec 2) (a : Address) (s : State) (p ok x3 x4 x5 b b' p' : Answer) (rest : List BusInput) (n : Nat),
    s.stage = 0 → p.flag = true → ok.flag = true → b.byte = s.cfg.ackSuccess → p'.flag = true →
    s.answers = [.answer p, .answer ok, .answer x3, .answer x4, .answer x5, .answer b, .answer b', .answer p'] ++ rest →
      (n ≤ 8 → ∃ t, execAll (List.replicate n (.writeStep pins a)) s = some t ∧ t.stage = BitVec.ofNat 4 n ∧
        t.responses = s.responses ++ List.replicate n (wordOfBytes [0x00])) ∧
      (∃ t, execAll (List.replicate 9 (.writeStep pins a)) s = some t ∧ t.stage = 0 ∧ t.lastError = false ∧ t.answers = rest ∧
        t.responses = s.responses ++ List.replicate 8 (wordOfBytes [0x00]) ++ [wordOfBytes [0x03]])

/-- R118: seven READ.STEP calls on a bus where every step passes: calls 1 to 6 take `stage` from 0 to 6, call 7 takes it to 0; the
decoded pins are in `PINS` from call 6 on, and `data` carries `PINS` in every response. -/
def Obligations.SevenPollingCallsRead : Prop :=
  ∀ (a : Address) (s : State) (p ok x3 b p' : Answer) (rest : List BusInput) (n : Nat),
    s.stage = 0 → p.flag = true → ok.flag = true → nibbleCheck b.byte = true → p'.flag = true →
    s.answers = [.answer p, .answer ok, .answer x3, .answer b, .answer p'] ++ rest →
      let old := reply false false .noError s.pinsByte
      let pins := decodePins s.cfg b.byte
      (n ≤ 5 → ∃ t, execAll (List.replicate n (.readStep a)) s = some t ∧ t.stage = BitVec.ofNat 4 n ∧ t.PINS = s.PINS ∧
        t.responses = s.responses ++ List.replicate n old) ∧
      (∃ t, execAll (List.replicate 6 (.readStep a)) s = some t ∧ t.stage = 6 ∧ t.PINS = pins ∧
        t.responses = s.responses ++ List.replicate 5 old ++ [reply false false .noError (pins.setWidth 8)]) ∧
      (∃ t, execAll (List.replicate 7 (.readStep a)) s = some t ∧ t.stage = 0 ∧ t.PINS = pins ∧ t.answers = rest ∧
        t.responses = s.responses ++ List.replicate 5 old ++
          [reply false false .noError (pins.setWidth 8), reply true true .noError (pins.setWidth 8)])

/-- R120: ISCONN is READ.RUN, made to its end, with `PINS` left alone and `data` 0. -/
def Obligations.IsConnIsReadRunWithoutThePins : Prop :=
  ∀ (a : Address) (s : State) (xs rest : List BusInput), onlyAnswers xs = true → xs.length = 5 → s.answers = xs ++ rest →
    ∃ (t : State) (ok : Bool) (cause : Cause),
      exec (.readRun a) s = .next t ∧ t.responses = s.responses ++ [reply true ok cause t.pinsByte] ∧
      exec (.isConn a) s = .next { t with PINS := s.PINS, responses := s.responses ++ [reply true ok cause 0] }

/-- R102: the `addr` field is read by step 2 only and the `arg` field by write step 4 only, of whichever command executes that step.
A single-step command whose step is another one does not read them, nor does a run-to-completion command begun after that step: made
to its end, whatever the inputs on the way, it does the same with any other operand. -/
def Obligations.OperandsMatterOnlyAtTheirStep : Prop :=
  ∀ (pins pins' : BitVec 2) (a a' : Address) (s : State),
    (s.answers ≠ [] →
      (s.stage ≠ 1#4 → exec (.writeStep pins a) s = exec (.writeStep pins a') s ∧ exec (.readStep a) s = exec (.readStep a') s) ∧
      (s.stage ≠ 3#4 → exec (.writeStep pins a) s = exec (.writeStep pins' a) s)) ∧
    (∀ t : State, t.cmdReady = true →
      (2 ≤ s.stage.toNat →
        (exec (.writeRun pins a) s = .next t → exec (.writeRun pins a') s = .next t) ∧
        (exec (.readRun a) s = .next t → exec (.readRun a') s = .next t) ∧
        (exec (.isConn a) s = .next t → exec (.isConn a') s = .next t)) ∧
      (4 ≤ s.stage.toNat → exec (.writeRun pins a) s = .next t → exec (.writeRun pins' a) s = .next t))

/-- R148 and R175: after an Engine command that answered `done = 1`, `lastError` is `1 - ok` and `stage` is 0. -/
def Obligations.FailureIsReportedTwice : Prop :=
  ∀ (i : Instr) (s t : State) (w : PortWord), i.isEngine = true → exec i s = .next t → t.responses = s.responses ++ [w] →
    w.getLsbD 0 = true → t.lastError = !w.getLsbD 1 ∧ t.stage = 0 ∧ t.cmdReady = true

/-- E6, R62, R63, R116, R122: on a device that echoes, writing the pins and reading them back gives the pins, for all four pairs,
where the read bits are bits 0 and 1. -/
def Obligations.PinsWrittenAreReadBackFromAnEcho : Prop :=
  ∀ (pins : BitVec 2) (a : Address) (s : State) (p ok x3 x4 x5 b b' p' q ok' y3 r q' : Answer) (rest : List BusInput),
    s.stage = 0 → s.cfg.rdPin0Bit = 0 → s.cfg.rdPin1Bit = 1 →
    p.flag = true → ok.flag = true → b.byte = s.cfg.ackSuccess → p'.flag = true →
    q.flag = true → ok'.flag = true → q'.flag = true →
    nibbleCheck r.byte = true → r.byte.getLsbD 0 = (stateByte pins).getLsbD 0 → r.byte.getLsbD 1 = (stateByte pins).getLsbD 1 →
    s.answers = [.answer p, .answer ok, .answer x3, .answer x4, .answer x5, .answer b, .answer b', .answer p',
      .answer q, .answer ok', .answer y3, .answer r, .answer q'] ++ rest →
      ∃ t, execAll [.writeRun pins a, .readRun a] s = some t ∧ t.PINS = pins ∧
        t.responses = s.responses ++ [reply true true .noError 0, reply true true .noError (pins.setWidth 8)]

/-- R63: the sixteen read-result bytes that pass the check. -/
def Obligations.SixteenReadBytesPassTheCheck : Prop :=
  ∀ r : Byte, nibbleCheck r = true ↔ r ∈ [(0xF0 : Byte), 0xE1, 0xD2, 0xC3, 0xB4, 0xA5, 0x96, 0x87, 0x78, 0x69, 0x5A, 0x4B, 0x3C,
    0x2D, 0x1E, 0x0F]

/-! ## Rules about the whole machine -/

/-- R21 is an invariant: every step, resets included, keeps it. -/
def Obligations.StepKeepsTheInvariant : Prop :=
  ∀ s t : State, s.Inv → step s = .next t → t.Inv

/-- R21 holds after reset, whatever the unspecified registers hold. -/
def Obligations.ResetHasTheInvariant : Prop :=
  State.reset.Inv ∧ ∀ (cfg : Config) (u : PowerUp), (State.powerOn cfg u).Inv

/-- A block that waits has a request on the provider port, and every step keeps this (R50; log entry 4). -/
def Obligations.StepKeepsARequestOutstanding : Prop :=
  ∀ s t : State, s.Waits → step s = .next t → t.Waits

/-- R22, R133, R81: what each command leaves unchanged, whether it has ended or still waits, when no `rst` comes. -/
def Obligations.CommandsChangeOnlyTheirRegisters : Prop :=
  ∀ (i : Instr) (s t : State), onlyAnswers s.answers = true → exec i s = .next t →
    (i.usesBus = false → { t with responses := s.responses, activity := s.activity } = s) ∧
    (i = .scan → t.withDirectoryOf s =
      { s with activity := t.activity, answers := t.answers, trace := t.trace, responses := t.responses }) ∧
    (∀ index, i = .addrIdx index →
      t = { s with activity := t.activity, answers := t.answers, trace := t.trace, responses := t.responses }) ∧
    (∀ pins a, i = .writeRun pins a ∨ i = .writeStep pins a →
      t = { s with
        stage := t.stage, lastError := t.lastError, pend0 := t.pend0, pend1 := t.pend1, wstate := t.wstate
        activity := t.activity, answers := t.answers, trace := t.trace, responses := t.responses }) ∧
    (∀ a, i = .readRun a ∨ i = .readStep a →
      t = { s with
        stage := t.stage, lastError := t.lastError, pend0 := t.pend0, PINS := t.PINS
        activity := t.activity, answers := t.answers, trace := t.trace, responses := t.responses }) ∧
    (∀ a, i = .isConn a →
      t = { s with
        stage := t.stage, lastError := t.lastError, pend0 := t.pend0
        activity := t.activity, answers := t.answers, trace := t.trace, responses := t.responses })

/-- R55, R133: when no `rst` comes, a command ends with exactly one response, or it waits, has given none, and no answer is left. -/
def Obligations.EveryCommandEndsWithOneResponse : Prop :=
  ∀ (i : Instr) (s : State), onlyAnswers s.answers = true → ∃ t, exec i s = .next t ∧
    ((t.cmdReady = true ∧ ∃ w, t.responses = s.responses ++ [w]) ∨
      (t.cmdReady = false ∧ t.responses = s.responses ∧ t.answers = []))

/-- R56 and R57: byte 0 of a response takes one of eight values; the cause is not 0 only when `done` is 1 and `ok` is 0, and only a
single-step command answers `done` 0. -/
def Obligations.ResponsesAreOfTheListedKinds : Prop :=
  ∀ (i : Instr) (s t : State) (w : PortWord), exec i s = .next t → t.responses = s.responses ++ [w] →
    w.extractLsb' 0 8 ∈ responseBytes0 ∧
    (w.extractLsb' 4 3 ≠ 0 → w.getLsbD 0 = true ∧ w.getLsbD 1 = false) ∧
    (w.getLsbD 0 = false → ∃ pins a, i = .writeStep pins a ∨ i = .readStep a)

/-- R11 (a), R44, R48: a step never changes the configuration and never rewrites what is in the trace and the responses (log entry
7). -/
def Obligations.StepKeepsConfigurationAndHistory : Prop :=
  ∀ s t : State, step s = .next t → t.cfg = s.cfg ∧ s.trace <+: t.trace ∧ s.responses <+: t.responses

/-- R81: the Directory and the Engine share no register. An Engine command does the same whatever the Directory registers hold, and
a Directory command whatever the Engine registers hold, when no `rst` comes. -/
def Obligations.DirectoryAndEngineShareNoRegister : Prop :=
  ∀ (i : Instr) (s d t : State), onlyAnswers s.answers = true → exec i s = .next t →
    (i.isEngine = true → exec i (s.withDirectoryOf d) = .next (t.withDirectoryOf d)) ∧
    (i.isEngine = false → i ≠ .getStat → exec i (s.withEngineOf d) = .next (t.withEngineOf d))
end

