-- ==== Sys2Proof/Laws/State.lean ====
section
/-! SUPPORT. One lemma per field for each named update of the state. -/

namespace Sys2Proof.Machine

variable (s : State)

section log
variable (e : Event)
@[simp] theorem log_cfg : (s.log e).cfg = s.cfg := rfl
@[simp] theorem log_deviceCount : (s.log e).deviceCount = s.deviceCount := rfl
@[simp] theorem log_familyDeviceCount : (s.log e).familyDeviceCount = s.familyDeviceCount := rfl
@[simp] theorem log_parasiticPowerFlag : (s.log e).parasiticPowerFlag = s.parasiticPowerFlag := rfl
@[simp] theorem log_stage : (s.log e).stage = s.stage := rfl
@[simp] theorem log_lastError : (s.log e).lastError = s.lastError := rfl
@[simp] theorem log_pend0 : (s.log e).pend0 = s.pend0 := rfl
@[simp] theorem log_pend1 : (s.log e).pend1 = s.pend1 := rfl
@[simp] theorem log_wstate : (s.log e).wstate = s.wstate := rfl
@[simp] theorem log_PINS : (s.log e).PINS = s.PINS := rfl
@[simp] theorem log_activity : (s.log e).activity = s.activity := rfl
@[simp] theorem log_host : (s.log e).host = s.host := rfl
@[simp] theorem log_answers : (s.log e).answers = s.answers := rfl
@[simp] theorem log_trace : (s.log e).trace = s.trace ++ [e] := rfl
@[simp] theorem log_responses : (s.log e).responses = s.responses := rfl
end log

section waitFor
variable (act : Activity)
@[simp] theorem waitFor_cfg : (s.waitFor act).cfg = s.cfg := rfl
@[simp] theorem waitFor_deviceCount : (s.waitFor act).deviceCount = s.deviceCount := rfl
@[simp] theorem waitFor_familyDeviceCount : (s.waitFor act).familyDeviceCount = s.familyDeviceCount := rfl
@[simp] theorem waitFor_parasiticPowerFlag : (s.waitFor act).parasiticPowerFlag = s.parasiticPowerFlag := rfl
@[simp] theorem waitFor_stage : (s.waitFor act).stage = s.stage := rfl
@[simp] theorem waitFor_lastError : (s.waitFor act).lastError = s.lastError := rfl
@[simp] theorem waitFor_pend0 : (s.waitFor act).pend0 = s.pend0 := rfl
@[simp] theorem waitFor_pend1 : (s.waitFor act).pend1 = s.pend1 := rfl
@[simp] theorem waitFor_wstate : (s.waitFor act).wstate = s.wstate := rfl
@[simp] theorem waitFor_PINS : (s.waitFor act).PINS = s.PINS := rfl
@[simp] theorem waitFor_activity : (s.waitFor act).activity = some act := rfl
@[simp] theorem waitFor_host : (s.waitFor act).host = s.host := rfl
@[simp] theorem waitFor_answers : (s.waitFor act).answers = s.answers := rfl
@[simp] theorem waitFor_trace : (s.waitFor act).trace = s.trace := rfl
@[simp] theorem waitFor_responses : (s.waitFor act).responses = s.responses := rfl
end waitFor

section respond
variable (r : Response)
@[simp] theorem respond_cfg : (s.respond r).cfg = s.cfg := rfl
@[simp] theorem respond_deviceCount : (s.respond r).deviceCount = s.deviceCount := rfl
@[simp] theorem respond_familyDeviceCount : (s.respond r).familyDeviceCount = s.familyDeviceCount := rfl
@[simp] theorem respond_parasiticPowerFlag : (s.respond r).parasiticPowerFlag = s.parasiticPowerFlag := rfl
@[simp] theorem respond_stage : (s.respond r).stage = s.stage := rfl
@[simp] theorem respond_lastError : (s.respond r).lastError = s.lastError := rfl
@[simp] theorem respond_pend0 : (s.respond r).pend0 = s.pend0 := rfl
@[simp] theorem respond_pend1 : (s.respond r).pend1 = s.pend1 := rfl
@[simp] theorem respond_wstate : (s.respond r).wstate = s.wstate := rfl
@[simp] theorem respond_PINS : (s.respond r).PINS = s.PINS := rfl
@[simp] theorem respond_activity : (s.respond r).activity = none := rfl
@[simp] theorem respond_host : (s.respond r).host = s.host := rfl
@[simp] theorem respond_answers : (s.respond r).answers = s.answers := rfl
@[simp] theorem respond_trace : (s.respond r).trace = s.trace := rfl
@[simp] theorem respond_responses : (s.respond r).responses = s.responses ++ [r.word] := rfl
end respond

section takeReset
variable (u : PowerUp)
@[simp] theorem takeReset_cfg : (s.takeReset u).cfg = s.cfg := rfl
@[simp] theorem takeReset_deviceCount : (s.takeReset u).deviceCount = 0 := rfl
@[simp] theorem takeReset_familyDeviceCount : (s.takeReset u).familyDeviceCount = 0 := rfl
@[simp] theorem takeReset_parasiticPowerFlag : (s.takeReset u).parasiticPowerFlag = false := rfl
@[simp] theorem takeReset_stage : (s.takeReset u).stage = 0 := rfl
@[simp] theorem takeReset_lastError : (s.takeReset u).lastError = false := rfl
@[simp] theorem takeReset_pend0 : (s.takeReset u).pend0 = u.pend0 := rfl
@[simp] theorem takeReset_pend1 : (s.takeReset u).pend1 = u.pend1 := rfl
@[simp] theorem takeReset_wstate : (s.takeReset u).wstate = u.wstate := rfl
@[simp] theorem takeReset_PINS : (s.takeReset u).PINS = u.PINS := rfl
@[simp] theorem takeReset_activity : (s.takeReset u).activity = none := rfl
@[simp] theorem takeReset_host : (s.takeReset u).host = s.host := rfl
@[simp] theorem takeReset_answers : (s.takeReset u).answers = s.answers := rfl
@[simp] theorem takeReset_trace : (s.takeReset u).trace = s.trace := rfl
@[simp] theorem takeReset_responses : (s.takeReset u).responses = s.responses := rfl
end takeReset

section called
variable (rest : List BusInput) (e : Event)
@[simp] theorem called_cfg : (s.called rest e).cfg = s.cfg := rfl
@[simp] theorem called_deviceCount : (s.called rest e).deviceCount = s.deviceCount := rfl
@[simp] theorem called_familyDeviceCount : (s.called rest e).familyDeviceCount = s.familyDeviceCount := rfl
@[simp] theorem called_parasiticPowerFlag : (s.called rest e).parasiticPowerFlag = s.parasiticPowerFlag := rfl
@[simp] theorem called_stage : (s.called rest e).stage = s.stage := rfl
@[simp] theorem called_lastError : (s.called rest e).lastError = s.lastError := rfl
@[simp] theorem called_pend0 : (s.called rest e).pend0 = s.pend0 := rfl
@[simp] theorem called_pend1 : (s.called rest e).pend1 = s.pend1 := rfl
@[simp] theorem called_wstate : (s.called rest e).wstate = s.wstate := rfl
@[simp] theorem called_PINS : (s.called rest e).PINS = s.PINS := rfl
@[simp] theorem called_activity : (s.called rest e).activity = s.activity := rfl
@[simp] theorem called_host : (s.called rest e).host = s.host := rfl
@[simp] theorem called_answers : (s.called rest e).answers = rest := rfl
@[simp] theorem called_trace : (s.called rest e).trace = s.trace ++ [e] := rfl
@[simp] theorem called_responses : (s.called rest e).responses = s.responses := rfl
end called

section responded
variable (w : PortWord)
@[simp] theorem responded_cfg : (s.responded w).cfg = s.cfg := rfl
@[simp] theorem responded_deviceCount : (s.responded w).deviceCount = s.deviceCount := rfl
@[simp] theorem responded_familyDeviceCount : (s.responded w).familyDeviceCount = s.familyDeviceCount := rfl
@[simp] theorem responded_parasiticPowerFlag : (s.responded w).parasiticPowerFlag = s.parasiticPowerFlag := rfl
@[simp] theorem responded_stage : (s.responded w).stage = s.stage := rfl
@[simp] theorem responded_lastError : (s.responded w).lastError = s.lastError := rfl
@[simp] theorem responded_pend0 : (s.responded w).pend0 = s.pend0 := rfl
@[simp] theorem responded_pend1 : (s.responded w).pend1 = s.pend1 := rfl
@[simp] theorem responded_wstate : (s.responded w).wstate = s.wstate := rfl
@[simp] theorem responded_PINS : (s.responded w).PINS = s.PINS := rfl
@[simp] theorem responded_activity : (s.responded w).activity = none := rfl
@[simp] theorem responded_host : (s.responded w).host = s.host := rfl
@[simp] theorem responded_answers : (s.responded w).answers = s.answers := rfl
@[simp] theorem responded_trace : (s.responded w).trace = s.trace := rfl
@[simp] theorem responded_responses : (s.responded w).responses = s.responses ++ [w] := rfl
end responded

section clearErrorIfIdle
@[simp] theorem clearErrorIfIdle_cfg : s.clearErrorIfIdle.cfg = s.cfg := by
  unfold State.clearErrorIfIdle; split <;> rfl
@[simp] theorem clearErrorIfIdle_deviceCount : s.clearErrorIfIdle.deviceCount = s.deviceCount := by
  unfold State.clearErrorIfIdle; split <;> rfl
@[simp] theorem clearErrorIfIdle_familyDeviceCount : s.clearErrorIfIdle.familyDeviceCount = s.familyDeviceCount := by
  unfold State.clearErrorIfIdle; split <;> rfl
@[simp] theorem clearErrorIfIdle_parasiticPowerFlag : s.clearErrorIfIdle.parasiticPowerFlag = s.parasiticPowerFlag := by
  unfold State.clearErrorIfIdle; split <;> rfl
@[simp] theorem clearErrorIfIdle_stage : s.clearErrorIfIdle.stage = s.stage := by
  unfold State.clearErrorIfIdle; split <;> rfl
@[simp] theorem clearErrorIfIdle_lastError : s.clearErrorIfIdle.lastError = (if s.stage = 0#4 then false else s.lastError) := by
  unfold State.clearErrorIfIdle; split <;> rfl
@[simp] theorem clearErrorIfIdle_pend0 : s.clearErrorIfIdle.pend0 = s.pend0 := by
  unfold State.clearErrorIfIdle; split <;> rfl
@[simp] theorem clearErrorIfIdle_pend1 : s.clearErrorIfIdle.pend1 = s.pend1 := by
  unfold State.clearErrorIfIdle; split <;> rfl
@[simp] theorem clearErrorIfIdle_wstate : s.clearErrorIfIdle.wstate = s.wstate := by
  unfold State.clearErrorIfIdle; split <;> rfl
@[simp] theorem clearErrorIfIdle_PINS : s.clearErrorIfIdle.PINS = s.PINS := by
  unfold State.clearErrorIfIdle; split <;> rfl
@[simp] theorem clearErrorIfIdle_activity : s.clearErrorIfIdle.activity = s.activity := by
  unfold State.clearErrorIfIdle; split <;> rfl
@[simp] theorem clearErrorIfIdle_host : s.clearErrorIfIdle.host = s.host := by
  unfold State.clearErrorIfIdle; split <;> rfl
@[simp] theorem clearErrorIfIdle_answers : s.clearErrorIfIdle.answers = s.answers := by
  unfold State.clearErrorIfIdle; split <;> rfl
@[simp] theorem clearErrorIfIdle_trace : s.clearErrorIfIdle.trace = s.trace := by
  unfold State.clearErrorIfIdle; split <;> rfl
@[simp] theorem clearErrorIfIdle_responses : s.clearErrorIfIdle.responses = s.responses := by
  unfold State.clearErrorIfIdle; split <;> rfl
end clearErrorIfIdle

/-- The Engine is idle: the prologue clears the error. -/
theorem clearErrorIfIdle_of_idle (h : s.stage = 0#4) : s.clearErrorIfIdle = { s with lastError := false } := by
  simp [State.clearErrorIfIdle, h]

/-- The Engine is in a sequence: the prologue changes nothing. -/
theorem clearErrorIfIdle_of_busy (h : s.stage ≠ 0#4) : s.clearErrorIfIdle = s := by
  simp [State.clearErrorIfIdle, h]

/-- The prologue done twice is the prologue. -/
@[simp] theorem clearErrorIfIdle_idem : s.clearErrorIfIdle.clearErrorIfIdle = s.clearErrorIfIdle := by
  by_cases h : s.stage = 0#4
  · simp [State.clearErrorIfIdle, h]
  · simp [State.clearErrorIfIdle, h]

section returns
variable (n : BitVec 4) (x : Cause)
@[simp] theorem goOn_done : (goOn n s).done = false := rfl
@[simp] theorem goOn_ok : (goOn n s).ok = false := rfl
@[simp] theorem goOn_cause : (goOn n s).cause = .noError := rfl
@[simp] theorem goOn_state : (goOn n s).state = { s with stage := n } := rfl
@[simp] theorem finish_done : (finish s).done = true := rfl
@[simp] theorem finish_ok : (finish s).ok = !s.lastError := rfl
@[simp] theorem finish_cause : (finish s).cause = .noError := rfl
@[simp] theorem finish_state : (finish s).state = { s with stage := 0 } := rfl
@[simp] theorem raise_done : (raise x s).done = true := rfl
@[simp] theorem raise_ok : (raise x s).ok = false := rfl
@[simp] theorem raise_cause : (raise x s).cause = x := rfl
@[simp] theorem raise_state : (raise x s).state = { s with lastError := true, stage := 0 } := rfl
end returns

/-- A response that carries no address is a `reply`. -/
theorem respond_eq_responded (done ok : Bool) (c : Cause) (d : Byte) :
    s.respond { done := done, ok := ok, cause := c, data := d, raddr := 0 } = s.responded (reply done ok c d) := rfl

end Sys2Proof.Machine
end

