-- ==== Sys2Proof/Laws/Engine.lean ====
section
/-! SUPPORT. What one step of the Engine is at each stage (R91 to R99, R111 to R117, R146), what it can do at all, said once, and
what it neither reads nor writes. -/

namespace Sys2Proof.Machine

/-- The four ways a step goes on with the answer of its call. -/
inductive Going where
  /-- The flag decides between the next stage and an abort. -/
  | flagged (n : BitVec 4) (x : Cause)
  /-- The answer is only the completion. -/
  | sent (n : BitVec 4)
  /-- The byte goes to `pend0`. -/
  | first (n : BitVec 4)
  /-- The byte goes to `pend1`. -/
  | second (n : BitVec 4)

/-- The step's return. -/
def Going.on (g : Going) (a : Answer) (s : State) : StepResult :=
  match g with
  | .flagged n x => if a.flag then goOn n s else raise x s
  | .sent n => goOn n s
  | .first n => goOn n { s with pend0 := a.byte }
  | .second n => goOn n { s with pend1 := a.byte }

/-- The stage the step leads to. -/
def Going.target (g : Going) : BitVec 4 :=
  match g with
  | .flagged n _ => n
  | .sent n => n
  | .first n => n
  | .second n => n

section writeSteps
variable {c : EngineCmd} {s : State} (hk : c.kind = .write)
include hk

theorem engineStep_write1 (h : s.stage = 0#4) :
    engineStep c s = .call .reset { s with lastError := false } (Going.flagged 1 .busPresence).on := by
  simp [engineStep, stageOutOfRange, hk, h, writeStep, State.clearErrorIfIdle]; rfl

theorem engineStep_write2 (h : s.stage = 1#4) :
    engineStep c s = .call (.select c.addr s.cfg.selectImmediate) s (Going.flagged 2 .selection).on := by
  simp [engineStep, stageOutOfRange, hk, h, writeStep, State.clearErrorIfIdle]; rfl

theorem engineStep_write3 (h : s.stage = 2#4) :
    engineStep c s = .call (.writeByte s.cfg.cmdAccessWrite) s (Going.sent 3).on := by
  simp [engineStep, stageOutOfRange, hk, h, writeStep, State.clearErrorIfIdle]; rfl

theorem engineStep_write4 (h : s.stage = 3#4) :
    engineStep c s = .call (.writeByte (stateByte c.pins)) { s with wstate := stateByte c.pins } (Going.sent 4).on := by
  have : engineStep c s = writeStep4 c s := by
    simp [engineStep, stageOutOfRange, hk, h, writeStep, State.clearErrorIfIdle]
  rw [this]; rfl

theorem engineStep_write5 (h : s.stage = 4#4) :
    engineStep c s = .call (.writeByte (~~~s.wstate)) s (Going.sent 5).on := by
  simp [engineStep, stageOutOfRange, hk, h, writeStep, State.clearErrorIfIdle]; rfl

theorem engineStep_write6 (h : s.stage = 5#4) : engineStep c s = .call .readByte s (Going.first 6).on := by
  simp [engineStep, stageOutOfRange, hk, h, writeStep, State.clearErrorIfIdle]; rfl

theorem engineStep_write7_match (h : s.stage = 6#4) (ha : s.pend0 = s.cfg.ackSuccess) :
    engineStep c s = .call .readByte s (Going.second 7).on := by
  simp [engineStep, stageOutOfRange, hk, h, writeStep, State.clearErrorIfIdle, writeStep7, ha]; rfl

theorem engineStep_write7_mismatch (h : s.stage = 6#4) (ha : s.pend0 ≠ s.cfg.ackSuccess) :
    engineStep c s = .ret (raise .verify s) := by
  simp [engineStep, stageOutOfRange, hk, h, writeStep, State.clearErrorIfIdle, writeStep7, ha]

theorem engineStep_write8 (h : s.stage = 7#4) : engineStep c s = .call .reset s (Going.flagged 8 .busPresence).on := by
  simp [engineStep, stageOutOfRange, hk, h, writeStep, State.clearErrorIfIdle]; rfl

theorem engineStep_write9 (h : s.stage = 8#4) : engineStep c s = .ret (finish s) := by
  simp [engineStep, stageOutOfRange, hk, h, writeStep, State.clearErrorIfIdle]; rfl

theorem engineStep_write_range (h : 8#4 < s.stage) : engineStep c s = .ret (raise .stageRange s) := by
  have h0 : ¬ s.stage = 0#4 := by bv_omega
  simp [engineStep, stageOutOfRange, hk, h, State.clearErrorIfIdle, h0]

end writeSteps

section readSteps
variable {c : EngineCmd} {s : State} (hk : c.kind = .read)
include hk

theorem engineStep_read1 (h : s.stage = 0#4) :
    engineStep c s = .call .reset { s with lastError := false } (Going.flagged 1 .busPresence).on := by
  simp [engineStep, stageOutOfRange, hk, h, readStep, State.clearErrorIfIdle]; rfl

theorem engineStep_read2 (h : s.stage = 1#4) :
    engineStep c s = .call (.select c.addr s.cfg.selectImmediate) s (Going.flagged 2 .selection).on := by
  simp [engineStep, stageOutOfRange, hk, h, readStep, State.clearErrorIfIdle]; rfl

theorem engineStep_read3 (h : s.stage = 2#4) :
    engineStep c s = .call (.writeByte s.cfg.cmdAccessRead) s (Going.sent 3).on := by
  simp [engineStep, stageOutOfRange, hk, h, readStep, State.clearErrorIfIdle]; rfl

theorem engineStep_read4 (h : s.stage = 3#4) : engineStep c s = .call .readByte s (Going.first 4).on := by
  simp [engineStep, stageOutOfRange, hk, h, readStep, State.clearErrorIfIdle]; rfl

theorem engineStep_read5 (h : s.stage = 4#4) : engineStep c s = .call .reset s (Going.flagged 5 .busPresence).on := by
  simp [engineStep, stageOutOfRange, hk, h, readStep, State.clearErrorIfIdle]; rfl

theorem engineStep_read6_pass (h : s.stage = 5#4) (hn : nibbleCheck s.pend0 = true) :
    engineStep c s = .ret (goOn 6 (if c.discard then s else { s with PINS := decodePins s.cfg s.pend0 })) := by
  simp [engineStep, stageOutOfRange, hk, h, readStep, State.clearErrorIfIdle, readStep6, hn]

theorem engineStep_read6_fail (h : s.stage = 5#4) (hn : nibbleCheck s.pend0 = false) :
    engineStep c s = .ret (raise .verify s) := by
  simp [engineStep, stageOutOfRange, hk, h, readStep, State.clearErrorIfIdle, readStep6, hn]

theorem engineStep_read7 (h : s.stage = 6#4) : engineStep c s = .ret (finish s) := by
  simp [engineStep, stageOutOfRange, hk, h, readStep, State.clearErrorIfIdle]; rfl

theorem engineStep_read_range (h : 6#4 < s.stage) : engineStep c s = .ret (raise .stageRange s) := by
  have h0 : ¬ s.stage = 0#4 := by bv_omega
  simp [engineStep, stageOutOfRange, hk, h, State.clearErrorIfIdle, h0]

end readSteps

/-- A stage is one of the nine of a write sequence or past them. -/
theorem stage_cases (n : BitVec 4) : n = 0#4 ∨ n = 1#4 ∨ n = 2#4 ∨ n = 3#4 ∨ n = 4#4 ∨ n = 5#4 ∨ n = 6#4 ∨ n = 7#4 ∨ n = 8#4 ∨
    8#4 < n := by
  revert n; decide

/-- What one step can do, said once: abort with no call, return from the last step, decode the pins with no call, or make one call
and go on in one of four ways. -/
inductive StepShape (c : EngineCmd) (s : State) : StepProg → Prop where
  | aborts (x : Cause) (hx : x = .stageRange ∨ x = .verify) (hs : s.stage ≠ 0#4) : StepShape c s (.ret (raise x s))
  | ends (hs : s.stage = 6#4 ∨ s.stage = 8#4) : StepShape c s (.ret (finish s))
  | decodes (pins : BitVec 2) (hk : c.kind = .read) (hs : s.stage = 5#4) (hd : c.discard = true → pins = s.PINS) :
      StepShape c s (.ret (goOn 6 { s with PINS := pins }))
  | calls (q : Request) (w : Byte) (g : Going) (hs : s.stage.toNat < 8) (ht : g.target = s.stage + 1)
      (hw : c.kind = .read → w = s.wstate) (hx : ∀ n x, g = .flagged n x → x = .busPresence ∨ x = .selection)
      (hg : ∀ n, g = .second n → c.kind = .write) :
      StepShape c s (.call q { s.clearErrorIfIdle with wstate := w } g.on)

theorem engineStep_shape (c : EngineCmd) (s : State) : StepShape c s (engineStep c s) := by
  have call : ∀ (q : Request) (g : Going), s.stage.toNat < 8 → s.stage ≠ 0#4 → g.target = s.stage + 1 →
      (∀ n x, g = .flagged n x → x = .busPresence ∨ x = .selection) → (∀ n, g = .second n → c.kind = .write) →
      StepShape c s (.call q s g.on) := by
    intro q g hs h0 ht hx hg
    simpa only [clearErrorIfIdle_of_busy s h0] using StepShape.calls (c := c) (s := s) q s.wstate g hs ht (fun _ => rfl) hx hg
  have first : s.stage = 0#4 →
      StepShape c s (.call .reset { s with lastError := false } (Going.flagged 1 .busPresence).on) := by
    intro h
    have := StepShape.calls (c := c) (s := s) .reset s.wstate (.flagged 1 .busPresence) (by simp [h]) (by simp [h, Going.target])
      (fun _ => rfl) (by rintro n x ⟨⟩; exact .inl rfl) (by rintro n ⟨⟩)
    simpa only [clearErrorIfIdle_of_idle s h] using this
  cases hk : c.kind
  · rcases stage_cases s.stage with h | h | h | h | h | h | h | h | h | h
    · rw [engineStep_write1 hk h]; exact first h
    · rw [engineStep_write2 hk h]; apply call <;> simp [h, Going.target, hk]
    · rw [engineStep_write3 hk h]; apply call <;> simp [h, Going.target, hk]
    · rw [engineStep_write4 hk h]
      have := StepShape.calls (c := c) (s := s) (.writeByte (stateByte c.pins)) (stateByte c.pins) (.sent 4) (by simp [h])
        (by simp [h, Going.target]) (by simp [hk]) (by rintro n x ⟨⟩) (by rintro n ⟨⟩)
      simpa only [clearErrorIfIdle_of_busy s (by simp [h] : s.stage ≠ 0#4)] using this
    · rw [engineStep_write5 hk h]; apply call <;> simp [h, Going.target, hk]
    · rw [engineStep_write6 hk h]; apply call <;> simp [h, Going.target, hk]
    · by_cases ha : s.pend0 = s.cfg.ackSuccess
      · rw [engineStep_write7_match hk h ha]; apply call <;> simp [h, Going.target, hk]
      · rw [engineStep_write7_mismatch hk h ha]; exact .aborts _ (.inr rfl) (by simp [h])
    · rw [engineStep_write8 hk h]; apply call <;> simp [h, Going.target, hk]
    · rw [engineStep_write9 hk h]; exact .ends (.inr h)
    · rw [engineStep_write_range hk h]; exact .aborts _ (.inl rfl) (by bv_omega)
  · rcases stage_cases s.stage with h | h | h | h | h | h | h | h | h | h
    · rw [engineStep_read1 hk h]; exact first h
    · rw [engineStep_read2 hk h]; apply call <;> simp [h, Going.target]
    · rw [engineStep_read3 hk h]; apply call <;> simp [h, Going.target]
    · rw [engineStep_read4 hk h]; apply call <;> simp [h, Going.target]
    · rw [engineStep_read5 hk h]; apply call <;> simp [h, Going.target]
    · cases hn : nibbleCheck s.pend0
      · rw [engineStep_read6_fail hk h hn]; exact .aborts _ (.inr rfl) (by simp [h])
      · rw [engineStep_read6_pass hk h hn]
        cases hd : c.discard
        · exact .decodes _ hk h (by simp [hd])
        · exact .decodes s.PINS hk h (fun _ => rfl)
    · rw [engineStep_read7 hk h]; exact .ends (.inl h)
    all_goals rw [engineStep_read_range hk (by bv_omega)]; exact .aborts _ (.inl rfl) (by bv_omega)

/-- Of the operands of an Engine command a step reads the address at stage 1 alone, and the pins of a write at stage 3 alone (R102). -/
theorem engineStep_operands {c c' : EngineCmd} {s : State} (hk : c'.kind = c.kind) (hd : c'.discard = c.discard)
    (ha : s.stage = 1#4 → c'.addr = c.addr) (hp : s.stage = 3#4 → c'.pins = c.pins) : engineStep c s = engineStep c' s := by
  cases c with
  | mk kind run discard addr pins =>
  cases c' with
  | mk kind' run' discard' addr' pins' =>
  dsimp only at hk hd ha hp
  subst hk hd
  unfold engineStep
  dsimp only
  split
  · rfl
  rcases stage_cases s.stage with h | h | h | h | h | h | h | h | h | h
  case inr.inl => rw [ha h]; cases kind' <;> simp [writeStep, readStep, h, writeStep2, readStep2]
  case inr.inr.inr.inl => rw [hp h]; cases kind' <;> simp [writeStep, readStep, h, writeStep4]
  all_goals first
    | (cases kind' <;> simp [writeStep, readStep, h, readStep6]; done)
    | (rename_i hr
       cases kind'
       · exact absurd (by simpa [stageOutOfRange] using h) hr
       · exact absurd (by simp [stageOutOfRange]; bv_omega) hr)

/-- What a step's call goes on with depends on the outcome alone: the next stage with a byte kept, or an abort. -/
theorem Going.on_cases (g : Going) (a : Answer) (s : State) :
    (∃ b b', g.on a s = goOn g.target { s with pend0 := b, pend1 := b' }) ∨ (∃ n x, g = .flagged n x ∧ g.on a s = raise x s) := by
  cases g with
  | flagged n x =>
    cases h : a.flag
    · exact .inr ⟨n, x, rfl, by simp [Going.on, h]⟩
    · exact .inl ⟨s.pend0, s.pend1, by simp [Going.on, h, Going.target]⟩
  | sent n => exact .inl ⟨s.pend0, s.pend1, rfl⟩
  | first n => exact .inl ⟨a.byte, s.pend1, rfl⟩
  | second n => exact .inl ⟨s.pend0, a.byte, rfl⟩

/-- The fields the Engine's steps neither read nor write, taken from `o`: the Directory registers, the command in progress and the
inputs to come. -/
def State.aside (s o : State) : State :=
  { s with
    deviceCount := o.deviceCount, familyDeviceCount := o.familyDeviceCount, parasiticPowerFlag := o.parasiticPowerFlag
    activity := o.activity, host := o.host, answers := o.answers }

/-- The same step from a state that differs in those fields. -/
def StepProg.aside (p : StepProg) (o : State) : StepProg :=
  match p with
  | .ret r => .ret { r with state := r.state.aside o }
  | .call q s k => .call q (s.aside o) k

theorem engineStep_aside (c : EngineCmd) (s o : State) : engineStep c (s.aside o) = (engineStep c s).aside o := by
  cases hk : c.kind
  · rcases stage_cases s.stage with h | h | h | h | h | h | h | h | h | h
    · rw [engineStep_write1 hk h, engineStep_write1 hk (s := s.aside o) h]; rfl
    · rw [engineStep_write2 hk h, engineStep_write2 hk (s := s.aside o) h]; rfl
    · rw [engineStep_write3 hk h, engineStep_write3 hk (s := s.aside o) h]; rfl
    · rw [engineStep_write4 hk h, engineStep_write4 hk (s := s.aside o) h]; rfl
    · rw [engineStep_write5 hk h, engineStep_write5 hk (s := s.aside o) h]; rfl
    · rw [engineStep_write6 hk h, engineStep_write6 hk (s := s.aside o) h]; rfl
    · by_cases ha : s.pend0 = s.cfg.ackSuccess
      · rw [engineStep_write7_match hk h ha, engineStep_write7_match hk (s := s.aside o) h ha]; rfl
      · rw [engineStep_write7_mismatch hk h ha, engineStep_write7_mismatch hk (s := s.aside o) h ha]; rfl
    · rw [engineStep_write8 hk h, engineStep_write8 hk (s := s.aside o) h]; rfl
    · rw [engineStep_write9 hk h, engineStep_write9 hk (s := s.aside o) h]; rfl
    · rw [engineStep_write_range hk h, engineStep_write_range hk (s := s.aside o) h]; rfl
  · rcases stage_cases s.stage with h | h | h | h | h | h | h | h | h | h
    · rw [engineStep_read1 hk h, engineStep_read1 hk (s := s.aside o) h]; rfl
    · rw [engineStep_read2 hk h, engineStep_read2 hk (s := s.aside o) h]; rfl
    · rw [engineStep_read3 hk h, engineStep_read3 hk (s := s.aside o) h]; rfl
    · rw [engineStep_read4 hk h, engineStep_read4 hk (s := s.aside o) h]; rfl
    · rw [engineStep_read5 hk h, engineStep_read5 hk (s := s.aside o) h]; rfl
    · cases hn : nibbleCheck s.pend0
      · rw [engineStep_read6_fail hk h hn, engineStep_read6_fail hk (s := s.aside o) h hn]; rfl
      · rw [engineStep_read6_pass hk h hn, engineStep_read6_pass hk (s := s.aside o) h hn]; cases c.discard <;> rfl
    · rw [engineStep_read7 hk h, engineStep_read7 hk (s := s.aside o) h]; rfl
    all_goals
      rw [engineStep_read_range hk (s := s) (by bv_omega), engineStep_read_range hk (s := s.aside o) (by show 6#4 < s.stage; bv_omega)]
      rfl

/-- A step that made its call makes the same call when the block waits in it: what it writes before the call it writes once. -/
theorem engineStep_call_idem {c : EngineCmd} {s s' : State} {q : Request} {k : Answer → State → StepResult}
    (h : engineStep c s = .call q s' k) : engineStep c s' = .call q s' k := by
  cases hk : c.kind
  · rcases stage_cases s.stage with hs | hs | hs | hs | hs | hs | hs | hs | hs | hs
    · rw [engineStep_write1 hk hs] at h; cases h; exact engineStep_write1 hk hs
    · rw [engineStep_write2 hk hs] at h; cases h; exact engineStep_write2 hk hs
    · rw [engineStep_write3 hk hs] at h; cases h; exact engineStep_write3 hk hs
    · rw [engineStep_write4 hk hs] at h; cases h; exact engineStep_write4 hk hs
    · rw [engineStep_write5 hk hs] at h; cases h; exact engineStep_write5 hk hs
    · rw [engineStep_write6 hk hs] at h; cases h; exact engineStep_write6 hk hs
    · by_cases ha : s.pend0 = s.cfg.ackSuccess
      · rw [engineStep_write7_match hk hs ha] at h; cases h; exact engineStep_write7_match hk hs ha
      · rw [engineStep_write7_mismatch hk hs ha] at h; cases h
    · rw [engineStep_write8 hk hs] at h; cases h; exact engineStep_write8 hk hs
    · rw [engineStep_write9 hk hs] at h; cases h
    · rw [engineStep_write_range hk hs] at h; cases h
  · rcases stage_cases s.stage with hs | hs | hs | hs | hs | hs | hs | hs | hs | hs
    · rw [engineStep_read1 hk hs] at h; cases h; exact engineStep_read1 hk hs
    · rw [engineStep_read2 hk hs] at h; cases h; exact engineStep_read2 hk hs
    · rw [engineStep_read3 hk hs] at h; cases h; exact engineStep_read3 hk hs
    · rw [engineStep_read4 hk hs] at h; cases h; exact engineStep_read4 hk hs
    · rw [engineStep_read5 hk hs] at h; cases h; exact engineStep_read5 hk hs
    · cases hn : nibbleCheck s.pend0
      · rw [engineStep_read6_fail hk hs hn] at h; cases h
      · rw [engineStep_read6_pass hk hs hn] at h; cases h
    · rw [engineStep_read7 hk hs] at h; cases h
    all_goals rw [engineStep_read_range hk (by bv_omega)] at h; cases h

/-- What a step's continuation does does not depend on the fields set aside. -/
theorem Going.on_aside (g : Going) (a : Answer) (s o : State) :
    g.on a (s.aside o) = { g.on a s with state := (g.on a s).state.aside o } := by
  cases g <;> simp only [Going.on] <;> first | rfl | (split <;> rfl)

/-- The call of a step goes on in one of the four ways, from the state after the prologue and the write of `wstate`. -/
theorem engineStep_call_going {c : EngineCmd} {s s' : State} {q : Request} {k : Answer → State → StepResult}
    (h : engineStep c s = .call q s' k) :
    ∃ (g : Going) (w : Byte), k = g.on ∧ s' = { s.clearErrorIfIdle with wstate := w } ∧ s.stage.toNat < 8 ∧
      g.target = s.stage + 1 ∧ (c.kind = .read → w = s.wstate) ∧
      (∀ n x, g = .flagged n x → x = .busPresence ∨ x = .selection) ∧ (∀ n, g = .second n → c.kind = .write) := by
  have hs := engineStep_shape c s
  rw [h] at hs
  cases hs with
  | calls q w g hs ht hw hx hg => exact ⟨g, w, rfl, rfl, hs, ht, hw, hx, hg⟩

/-- The fields of `aside` but for the command in progress. -/
def State.beside (s o : State) : State :=
  { s with
    deviceCount := o.deviceCount, familyDeviceCount := o.familyDeviceCount, parasiticPowerFlag := o.parasiticPowerFlag
    host := o.host, answers := o.answers }

@[simp] theorem beside_self (s : State) : s.beside s = s := rfl

/-- What an Engine command does from its start or from the return of a step: `engineGo` with any fuel from 2 up, which is enough,
since after a step that makes no call and does not end the sequence comes the last one (R101). -/
def engineBegin (c : EngineCmd) (s : State) : State :=
  match engineStep c s with
  | .call _ s' _ => s'.waitFor (.engine c)
  | .ret r => if c.run && !r.done then engineRespond c (finish r.state) else engineRespond c r

theorem engineGo_eq (n : Nat) (c : EngineCmd) (s : State) : engineGo (n + 2) c s = engineBegin c s := by
  unfold engineGo engineBegin
  have hs := engineStep_shape c s
  cases h : engineStep c s with
  | call q s' k => rfl
  | ret r =>
    rw [h] at hs
    cases hr : c.run
    · simp
    · cases hd : r.done
      · cases hs with
        | aborts x => cases hd
        | ends => cases hd
        | decodes pins hk =>
          have := engineStep_read7 (c := c) (s := (goOn 6 { s with PINS := pins }).state) hk rfl
          simp only [goOn_done, Bool.not_false, Bool.and_self, if_true]
          unfold engineGo
          rw [this]
          simp
      · simp [hd]

/-- A response of an Engine command does not look at the fields beside it. -/
theorem engineRespond_beside (c : EngineCmd) (r : StepResult) (o : State) :
    engineRespond c { r with state := r.state.beside o } = (engineRespond c r).beside o := by
  cases c with
  | mk kind run discard addr pins => cases kind <;> rfl

/-- Nor at the command in progress. -/
theorem engineRespond_aside (c : EngineCmd) (r : StepResult) (o : State) :
    engineRespond c { r with state := r.state.aside o } = (engineRespond c r).beside o := by
  cases c with
  | mk kind run discard addr pins => cases kind <;> rfl

theorem engineBegin_aside (c : EngineCmd) (s o : State) : engineBegin c (s.aside o) = (engineBegin c s).beside o := by
  unfold engineBegin
  rw [engineStep_aside]
  cases engineStep c s with
  | call q s' k => rfl
  | ret r =>
    simp only [StepProg.aside]
    split
    · exact engineRespond_aside c (finish r.state) o
    · exact engineRespond_aside c r o

theorem engineBegin_beside (c : EngineCmd) (s o : State) : engineBegin c (s.beside o) = (engineBegin c s).beside o :=
  engineBegin_aside c s { o with activity := s.activity }

theorem engineReturn_aside (c : EngineCmd) (r : StepResult) (o : State) :
    engineReturn c { r with state := r.state.aside o } = (engineReturn c r).beside o := by
  unfold engineReturn
  simp only [engineGo_eq 7]
  split
  · exact engineBegin_aside c r.state o
  · exact engineRespond_aside c r o

theorem engineAnswer_beside (c : EngineCmd) (a : Answer) (s o : State) :
    engineAnswer c a (s.beside o) = (engineAnswer c a s).beside o := by
  have hb : s.beside o = s.aside { o with activity := s.activity } := rfl
  unfold engineAnswer
  rw [hb, engineStep_aside]
  cases h : engineStep c s with
  | ret r => exact engineReturn_aside c r _
  | call q s' k =>
    obtain ⟨g, -, rfl, -⟩ := engineStep_call_going h
    simp only [StepProg.aside]
    have : (s'.aside { o with activity := s.activity }).log (q.event a) =
        (s'.log (q.event a)).aside { o with activity := s.activity } := rfl
    rw [this, Going.on_aside, engineReturn_aside]
    rfl

end Sys2Proof.Machine
end

