-- ==== Sys2Proof/Laws/Drive.lean ====
section
/-! SUPPORT. The run of a command over the provider's inputs: its equations, how it starts and goes on for an Engine command, and
the one induction over it. -/

namespace Sys2Proof.Machine

/-- No command is in progress, or one is. -/
theorem activity_cases (s : State) : s.activity = none ∨ ∃ act, s.activity = some act := by
  cases s.activity <;> simp

@[simp] theorem drive_nil (s : State) : drive [] s = { s with answers := [] } := rfl

theorem drive_idle {s : State} (h : s.activity = none) (xs : List BusInput) : drive xs s = { s with answers := xs } := by
  cases xs <;> simp [drive, h]

theorem drive_cons {s : State} {act : Activity} (h : s.activity = some act) (x : BusInput) (xs : List BusInput) :
    drive (x :: xs) s = drive xs (onBusInput act x s) := by
  simp [drive, h]

@[simp] theorem drive_waitFor_answer (s : State) (act : Activity) (a : Answer) (xs : List BusInput) :
    drive (.answer a :: xs) (s.waitFor act) = drive xs (act.onAnswer a (s.waitFor act)) := rfl

@[simp] theorem drive_respond (s : State) (r : Response) (xs : List BusInput) :
    drive xs (s.respond r) = { s.respond r with answers := xs } := drive_idle rfl xs

@[simp] theorem drive_responded (s : State) (w : PortWord) (xs : List BusInput) :
    drive xs (s.responded w) = { s.responded w with answers := xs } := drive_idle rfl xs

/-- The induction over a run, once: what holds at the start, is kept by every input, and does not look at `answers`, holds at the
end. -/
theorem drive_induction {P : State → Prop} (hans : ∀ s xs, P s → P { s with answers := xs })
    {ok : BusInput → Prop} (hstep : ∀ act x s, s.activity = some act → ok x → P s → P (onBusInput act x s)) :
    ∀ xs s, (∀ x ∈ xs, ok x) → P s → P (drive xs s)
  | [], s, _, h => hans s _ h
  | x :: xs, s, hx, h => by
    rcases activity_cases s with ha | ⟨act, ha⟩
    · rw [drive_idle ha]; exact hans s _ h
    · rw [drive_cons ha]
      exact drive_induction hans hstep xs _ (fun y hy => hx y (List.mem_cons_of_mem _ hy))
        (hstep act x s ha (hx x List.mem_cons_self) h)

/-- What is done with an answer does not look at the answers to come. -/
theorem onAnswer_answers (act : Activity) (a : Answer) (s : State) (xs : List BusInput) :
    act.onAnswer a { s with answers := xs } = { act.onAnswer a s with answers := xs } := by
  cases act with
  | engine c =>
    have h := engineAnswer_beside c a s { s with answers := xs }
    have h' : engineAnswer c a s = (engineAnswer c a s).beside s := by
      conv_lhs => rw [← beside_self s, engineAnswer_beside]
    show engineAnswer c a (s.beside { s with answers := xs }) = { engineAnswer c a s with answers := xs }
    rw [h, h']; rfl
  | scanReset => rfl
  | scanSearch =>
    cases hf : a.flag <;> cases hv : validAddress s.cfg a.addr <;>
      simp [Activity.onAnswer, scanAfterSearch, hf, State.log, State.waitFor, State.respond, countHit, hv]
  | scanPower b => cases hf : a.flag <;> simp [Activity.onAnswer, scanAfterPower, hf, State.log, State.waitFor]
  | walkReset index => simp [Activity.onAnswer, walkAfterReset, walkNext, State.log, State.waitFor]
  | walkSearch index depth =>
    by_cases hf : a.flag = true <;> by_cases hv : depth = index ∧ validAddress s.cfg a.addr = true <;>
      by_cases hd : depth + 1 ≤ index <;>
      simp [Activity.onAnswer, walkAfterSearch, walkNext, State.log, State.waitFor, State.respond, hf, hv, hd]

theorem onBusInput_answers (act : Activity) (x : BusInput) (s : State) (xs : List BusInput) :
    onBusInput act x { s with answers := xs } = { onBusInput act x s with answers := xs } := by
  cases x with
  | answer a => exact onAnswer_answers act a s xs
  | rst u => rfl

/-- A run takes its inputs from its list alone. -/
theorem drive_answers (xs ys : List BusInput) (s : State) : drive xs { s with answers := ys } = drive xs s := by
  induction xs generalizing s with
  | nil => rfl
  | cons x xs ih =>
    rcases activity_cases s with ha | ⟨act, ha⟩
    · rw [drive_idle ha, drive_idle (s := { s with answers := ys }) ha]
    · rw [drive_cons ha, drive_cons (s := { s with answers := ys }) ha, onBusInput_answers]
      exact ih _

/-- A run that is cut in two: it goes on in the second part only if a command is still in progress. -/
theorem drive_append (xs ys : List BusInput) (s : State) :
    drive (xs ++ ys) s =
      if (drive xs s).cmdReady then { drive xs s with answers := (drive xs s).answers ++ ys } else drive ys (drive xs s) := by
  induction xs generalizing s with
  | nil =>
    rcases activity_cases s with ha | ⟨act, ha⟩
    · simp [State.cmdReady, drive_idle ha, ha]
    · simpa [State.cmdReady, ha] using (drive_answers ys [] s).symm
  | cons x xs ih =>
    rcases activity_cases s with ha | ⟨act, ha⟩
    · simp [State.cmdReady, drive_idle ha, ha]
    · rw [List.cons_append, drive_cons ha, drive_cons ha]; exact ih _

/-! ### An Engine command from its start -/

/-- It ends at once: its step makes no call, and is the last of the command. -/
theorem run_ret {c : EngineCmd} {s : State} {r : StepResult} (h : engineStep c s = .ret r) (hd : c.run = false ∨ r.done = true) :
    runCommand (engineGo 9 c s) = engineRespond c r := by
  have : engineGo 9 c s = engineRespond c r := by
    rw [engineGo_eq 7]
    unfold engineBegin
    rw [h]
    rcases hd with hd | hd <;> simp [hd]
  rw [this]; exact drive_respond _ _ _

/-- It runs to completion over a step that makes no call and is not the last. -/
theorem run_ret_run {c : EngineCmd} {s : State} {r : StepResult} (h : engineStep c s = .ret r) (hr : c.run = true)
    (hd : r.done = false) : runCommand (engineGo 9 c s) = runCommand (engineGo 9 c r.state) := by
  rw [engineGo_eq 7, engineGo_eq 7]
  congr 1
  have hs := engineStep_shape c s
  rw [h] at hs
  cases hs with
  | aborts x => cases hd
  | ends => cases hd
  | decodes pins hk =>
    have := engineStep_read7 (c := c) (s := (goOn 6 { s with PINS := pins }).state) hk rfl
    unfold engineBegin
    rw [h, this]
    simp [hr]

/-- Its step makes a call that is answered. -/
theorem run_call {c : EngineCmd} {s s' : State} {q : Request} {k : Answer → State → StepResult} {a : Answer}
    {rest : List BusInput} (h : engineStep c s = .call q s' k) (ha : s.answers = .answer a :: rest) :
    runCommand (engineGo 9 c s) =
      if c.run && !(k a (s'.called rest (q.event a))).done then runCommand (engineGo 9 c (k a (s'.called rest (q.event a))).state)
      else engineRespond c (k a (s'.called rest (q.event a))) := by
  obtain ⟨g, w, rfl, hs', -⟩ := engineStep_call_going h
  have ha' : s'.answers = .answer a :: rest := by rw [hs']; simpa using ha
  have hgo : engineGo 9 c s = s'.waitFor (.engine c) := by
    rw [engineGo_eq 7]; unfold engineBegin; rw [h]
  have hw : engineStep c (s'.waitFor (.engine c)) = .call q (s'.waitFor (.engine c)) g.on := by
    have : s'.waitFor (.engine c) = s'.aside (s'.waitFor (.engine c)) := rfl
    rw [this, engineStep_aside, engineStep_call_idem h]; rfl
  have hl : (s'.waitFor (.engine c)).log (q.event a) =
      (s'.called rest (q.event a)).aside (s'.waitFor (.engine c)) := rfl
  unfold runCommand
  rw [hgo, waitFor_answers, ha', drive_waitFor_answer]
  simp only [Activity.onAnswer, engineAnswer, hw]
  rw [hl, Going.on_aside, engineReturn_aside]
  generalize hr : g.on a (s'.called rest (q.event a)) = r
  have hans : r.state.answers = rest := by
    rw [← hr]; rcases Going.on_cases g a (s'.called rest (q.event a)) with ⟨b, b', e⟩ | ⟨n, x, -, e⟩ <;> rw [e] <;> rfl
  have hdir : r.state.beside (s'.waitFor (.engine c)) = { r.state with answers := s'.answers } := by
    rw [← hr]; rcases Going.on_cases g a (s'.called rest (q.event a)) with ⟨b, b', e⟩ | ⟨n, x, -, e⟩ <;> rw [e] <;> rfl
  unfold engineReturn
  split
  · rw [engineGo_eq 7, ← engineBegin_beside, hdir]
    have hb : ({ r.state with answers := s'.answers } : State) = r.state.beside { r.state with answers := s'.answers } := rfl
    have hb' : engineBegin c r.state = (engineBegin c r.state).beside r.state := by
      conv_lhs => rw [← beside_self r.state, engineBegin_beside]
    have he : (engineBegin c r.state).beside { r.state with answers := s'.answers } =
        { engineBegin c r.state with answers := s'.answers } := by rw [hb']; rfl
    rw [hb, engineBegin_beside, he, drive_answers]
    have : (engineBegin c r.state).answers = rest := by rw [hb']; exact hans
    rw [this]
  · rw [← engineRespond_beside, hdir]
    have : engineRespond c { r with state := { r.state with answers := s'.answers } } =
        { engineRespond c r with answers := s'.answers } := by
      cases c with
      | mk kind run discard addr pins => cases kind <;> rfl
    rw [this, drive_answers]
    show drive rest (State.respond _ r.state) = _
    rw [drive_respond, ← hans]; rfl

end Sys2Proof.Machine
end

