-- ==== Sys2Proof/Laws/Directory.lean ====
section
/-! SUPPORT. What the Directory's operations leave unchanged, and what every input on the provider side leaves unchanged. -/

namespace Sys2Proof.Machine

section countHit
variable (a : Address) (s : State)

theorem countHit_valid (h : validAddress s.cfg a = true) :
    countHit a s = { s with
      deviceCount := satInc s.deviceCount
      familyDeviceCount := bif inFamily s.cfg a then satInc s.familyDeviceCount else s.familyDeviceCount } := by
  simp [countHit, h]

theorem countHit_invalid (h : validAddress s.cfg a = false) : countHit a s = s := by
  simp [countHit, h]

@[simp] theorem countHit_cfg : (countHit a s).cfg = s.cfg := by
  cases h : validAddress s.cfg a <;> simp [countHit, h]

@[simp] theorem countHit_parasiticPowerFlag : (countHit a s).parasiticPowerFlag = s.parasiticPowerFlag := by
  cases h : validAddress s.cfg a <;> simp [countHit, h]

@[simp] theorem countHit_stage : (countHit a s).stage = s.stage := by
  cases h : validAddress s.cfg a <;> simp [countHit, h]

@[simp] theorem countHit_lastError : (countHit a s).lastError = s.lastError := by
  cases h : validAddress s.cfg a <;> simp [countHit, h]

@[simp] theorem countHit_pend0 : (countHit a s).pend0 = s.pend0 := by
  cases h : validAddress s.cfg a <;> simp [countHit, h]

@[simp] theorem countHit_pend1 : (countHit a s).pend1 = s.pend1 := by
  cases h : validAddress s.cfg a <;> simp [countHit, h]

@[simp] theorem countHit_wstate : (countHit a s).wstate = s.wstate := by
  cases h : validAddress s.cfg a <;> simp [countHit, h]

@[simp] theorem countHit_PINS : (countHit a s).PINS = s.PINS := by
  cases h : validAddress s.cfg a <;> simp [countHit, h]

@[simp] theorem countHit_activity : (countHit a s).activity = s.activity := by
  cases h : validAddress s.cfg a <;> simp [countHit, h]

@[simp] theorem countHit_host : (countHit a s).host = s.host := by
  cases h : validAddress s.cfg a <;> simp [countHit, h]

@[simp] theorem countHit_answers : (countHit a s).answers = s.answers := by
  cases h : validAddress s.cfg a <;> simp [countHit, h]

@[simp] theorem countHit_trace : (countHit a s).trace = s.trace := by
  cases h : validAddress s.cfg a <;> simp [countHit, h]

@[simp] theorem countHit_responses : (countHit a s).responses = s.responses := by
  cases h : validAddress s.cfg a <;> simp [countHit, h]

end countHit

section walkNext
variable (index depth : Nat) (s : State)

@[simp] theorem walkNext_cfg : (walkNext index depth s).cfg = s.cfg := by
  by_cases h : depth ≤ index <;> simp [walkNext, h]

@[simp] theorem walkNext_deviceCount : (walkNext index depth s).deviceCount = s.deviceCount := by
  by_cases h : depth ≤ index <;> simp [walkNext, h]

@[simp] theorem walkNext_familyDeviceCount : (walkNext index depth s).familyDeviceCount = s.familyDeviceCount := by
  by_cases h : depth ≤ index <;> simp [walkNext, h]

@[simp] theorem walkNext_parasiticPowerFlag : (walkNext index depth s).parasiticPowerFlag = s.parasiticPowerFlag := by
  by_cases h : depth ≤ index <;> simp [walkNext, h]

@[simp] theorem walkNext_stage : (walkNext index depth s).stage = s.stage := by
  by_cases h : depth ≤ index <;> simp [walkNext, h]

@[simp] theorem walkNext_lastError : (walkNext index depth s).lastError = s.lastError := by
  by_cases h : depth ≤ index <;> simp [walkNext, h]

@[simp] theorem walkNext_pend0 : (walkNext index depth s).pend0 = s.pend0 := by
  by_cases h : depth ≤ index <;> simp [walkNext, h]

@[simp] theorem walkNext_pend1 : (walkNext index depth s).pend1 = s.pend1 := by
  by_cases h : depth ≤ index <;> simp [walkNext, h]

@[simp] theorem walkNext_wstate : (walkNext index depth s).wstate = s.wstate := by
  by_cases h : depth ≤ index <;> simp [walkNext, h]

@[simp] theorem walkNext_PINS : (walkNext index depth s).PINS = s.PINS := by
  by_cases h : depth ≤ index <;> simp [walkNext, h]

@[simp] theorem walkNext_host : (walkNext index depth s).host = s.host := by
  by_cases h : depth ≤ index <;> simp [walkNext, h]

@[simp] theorem walkNext_answers : (walkNext index depth s).answers = s.answers := by
  by_cases h : depth ≤ index <;> simp [walkNext, h]

@[simp] theorem walkNext_trace : (walkNext index depth s).trace = s.trace := by
  by_cases h : depth ≤ index <;> simp [walkNext, h]

end walkNext

/-- Everything one answer can do for SCAN and ADDRIDX: the Engine's registers, the configuration and the inputs stay. -/
theorem onAnswer_directory {act : Activity} (h : ∀ c, act ≠ .engine c) (a : Answer) (s : State) :
    act.onAnswer a s =
      { act.onAnswer a s with
        cfg := s.cfg, stage := s.stage, lastError := s.lastError, pend0 := s.pend0, pend1 := s.pend1, wstate := s.wstate
        PINS := s.PINS, host := s.host, answers := s.answers } := by
  cases act with
  | engine c => exact absurd rfl (h c)
  | scanReset => rfl
  | scanSearch =>
    cases hf : a.flag
    · simp [Activity.onAnswer, scanAfterSearch, hf, State.respond, State.log]
    · cases hv : validAddress s.cfg a.addr <;>
        simp [Activity.onAnswer, scanAfterSearch, hf, State.waitFor, State.log, countHit, hv]
  | scanPower b => cases hf : a.flag <;> simp [Activity.onAnswer, scanAfterPower, hf, State.waitFor, State.log]
  | walkReset index => simp [Activity.onAnswer, walkAfterReset, walkNext, State.waitFor, State.log]
  | walkSearch index depth =>
    cases hf : a.flag
    · simp [Activity.onAnswer, walkAfterSearch, hf, State.respond, State.log]
    · by_cases hv : depth = index ∧ validAddress s.cfg a.addr = true
      · simp [Activity.onAnswer, walkAfterSearch, hf, hv, State.respond, State.log]
      · by_cases hd : depth + 1 ≤ index <;>
          simp [Activity.onAnswer, walkAfterSearch, hf, hv, State.respond, State.log, walkNext, hd, State.waitFor]

/-- Everything one answer can do for an Engine command: the Directory's registers and the inputs stay. -/
theorem onAnswer_engine (c : EngineCmd) (a : Answer) (s : State) :
    (Activity.engine c).onAnswer a s = ((Activity.engine c).onAnswer a s).beside s := by
  show engineAnswer c a s = (engineAnswer c a s).beside s
  conv_lhs => rw [← beside_self s, engineAnswer_beside]

/-- An Engine command's start leaves the Directory's registers and the inputs. -/
theorem engineGo_beside_self (c : EngineCmd) (s : State) : engineGo 9 c s = (engineGo 9 c s).beside s := by
  rw [engineGo_eq 7]
  conv_lhs => rw [← beside_self s, engineBegin_beside]

@[simp] theorem onBusInput_host (act : Activity) (x : BusInput) (s : State) : (onBusInput act x s).host = s.host := by
  cases x with
  | rst u => rfl
  | answer a =>
    cases act with
    | engine c => show ((Activity.engine c).onAnswer a s).host = _; rw [onAnswer_engine]; rfl
    | scanReset => rfl
    | scanSearch => show ((Activity.scanSearch).onAnswer a s).host = _; rw [onAnswer_directory (by simp)]
    | scanPower b => show ((Activity.scanPower b).onAnswer a s).host = _; rw [onAnswer_directory (by simp)]
    | walkReset i => show ((Activity.walkReset i).onAnswer a s).host = _; rw [onAnswer_directory (by simp)]
    | walkSearch i d => show ((Activity.walkSearch i d).onAnswer a s).host = _; rw [onAnswer_directory (by simp)]

/-- A run does not touch what the host presents. -/
@[simp] theorem drive_host (xs : List BusInput) (s : State) : (drive xs s).host = s.host :=
  drive_induction (P := fun t => t.host = s.host) (ok := fun _ => True) (fun _ _ h => h)
    (fun act x t _ _ h => (onBusInput_host act x t).trans h) xs s (by simp) rfl

end Sys2Proof.Machine
end

