-- ==== Sys2Proof/Laws/Words.lean ====
section
/-! SUPPORT. The fields of the 80-bit words: reading back what was put together (R51, R55). -/

namespace Sys2Proof

variable (b0 b1 : Byte) (a : Address)

@[simp] theorem wordOfFields_byte0 : (wordOfFields b0 b1 a).extractLsb' 0 8 = b0 := by
  unfold wordOfFields
  ext k hk
  simp only [BitVec.getElem_extractLsb', Nat.zero_add, BitVec.getLsbD_or, BitVec.getLsbD_shiftLeft, BitVec.getLsbD_setWidth]
  have h1 : k < 16 := by omega
  have h2 : k < 80 := by omega
  simp [h1, hk, h2]

@[simp] theorem wordOfFields_byte1 : (wordOfFields b0 b1 a).extractLsb' 8 8 = b1 := by
  unfold wordOfFields
  ext k hk
  simp only [BitVec.getElem_extractLsb', BitVec.getLsbD_or, BitVec.getLsbD_shiftLeft, BitVec.getLsbD_setWidth]
  have h1 : 8 + k < 16 := by omega
  have h2 : 8 + k < 80 := by omega
  have h3 : k < 80 := by omega
  simp [h1, h2, h3, ← BitVec.getLsbD_eq_getElem]

@[simp] theorem wordOfFields_address : (wordOfFields b0 b1 a).extractLsb' 16 64 = a := by
  unfold wordOfFields
  ext k hk
  simp only [BitVec.getElem_extractLsb', BitVec.getLsbD_or, BitVec.getLsbD_shiftLeft, BitVec.getLsbD_setWidth]
  have h2 : 16 + k < 80 := by omega
  have h3 : k < 80 := by omega
  have h4 : 16 + k - 8 = 8 + k := by omega
  have h5 : b0.getLsbD (16 + k) = false := BitVec.getLsbD_of_ge _ _ (by omega)
  simp [h2, h3, h4, h5, BitVec.getLsbD_of_ge, ← BitVec.getLsbD_eq_getElem]

@[simp] theorem opcodeField_encode (i : Instr) : opcodeField (encode i) = i.opcode := wordOfFields_byte0 ..

@[simp] theorem argField_encode (i : Instr) : argField (encode i) = i.argByte := wordOfFields_byte1 ..

@[simp] theorem addrField_encode (i : Instr) : addrField (encode i) = i.addrBits := wordOfFields_address ..

/-- The pin operand is the low two bits of the argument byte. -/
theorem pinsField_eq (w : PortWord) : pinsField w = (argField w).extractLsb' 0 2 := by
  unfold pinsField argField
  ext k hk
  have : k < 8 := by omega
  simp [this]

@[simp] theorem Machine.word_byte0 (r : Machine.Response) : r.word.extractLsb' 0 8 = r.byte0 := wordOfFields_byte0 ..

@[simp] theorem Machine.word_data (r : Machine.Response) : r.word.extractLsb' 8 8 = r.data := wordOfFields_byte1 ..

@[simp] theorem Machine.word_raddr (r : Machine.Response) : r.word.extractLsb' 16 64 = r.raddr := wordOfFields_address ..

/-- A bit of byte 0 of a word. -/
theorem getLsbD_byte0 (w : PortWord) (k : Nat) (hk : k < 8) : w.getLsbD k = (w.extractLsb' 0 8).getLsbD k := by
  simp [hk]

@[simp] theorem Machine.word_done (r : Machine.Response) : r.word.getLsbD 0 = r.done := by
  rw [getLsbD_byte0 _ 0 (by decide), Machine.word_byte0]
  unfold Machine.Response.byte0
  generalize r.cause.code = c
  generalize r.done = d
  generalize r.ok = o
  revert c d o
  decide

@[simp] theorem Machine.word_ok (r : Machine.Response) : r.word.getLsbD 1 = r.ok := by
  rw [getLsbD_byte0 _ 1 (by decide), Machine.word_byte0]
  unfold Machine.Response.byte0
  generalize r.cause.code = c
  generalize r.done = d
  generalize r.ok = o
  revert c d o
  decide

/-- The same two bits as simp writes them. -/
@[simp] theorem Machine.word_getElem_done (r : Machine.Response) : r.word[0] = r.done := by
  rw [← Machine.word_done r, BitVec.getLsbD_eq_getElem]

@[simp] theorem Machine.word_getElem_ok (r : Machine.Response) : r.word[1] = r.ok := by
  rw [← Machine.word_ok r, BitVec.getLsbD_eq_getElem]

@[simp] theorem Machine.word_cause (r : Machine.Response) : r.word.extractLsb' 4 3 = r.cause.code := by
  have : r.word.extractLsb' 4 3 = (r.word.extractLsb' 0 8).extractLsb' 4 3 := by
    ext k hk
    simp [-Machine.word_byte0]
  rw [this, Machine.word_byte0]
  unfold Machine.Response.byte0
  generalize r.cause.code = c
  generalize r.done = d
  generalize r.ok = o
  revert c d o
  decide

end Sys2Proof
end

