-- ==== Sys2Proof/Laws/Effects.lean ====
section
/-! SUPPORT. Everything a command can do to a state, said once: what an Engine command and what a Directory walk writes, and how each
ends (spec/43_system.md R133, spec/30_encoding.md R55 to R57, spec/60_exceptions.md R147, R148). -/

namespace Sys2Proof.Machine

/-! ### The Engine -/

/-- `t` differs from `s` in no register but those an Engine command of this kind writes, and the trace has only grown. The command in
progress and the responses may differ. -/
structure EngineChange (c : EngineCmd) (s t : State) : Prop where
  frame : t = { s with
    stage := t.stage, lastError := t.lastError, pend0 := t.pend0, pend1 := t.pend1, wstate := t.wstate, PINS := t.PINS
    activity := t.activity, trace := t.trace, responses := t.responses }
  trace : s.trace <+: t.trace
  read : c.kind = .read → t.pend1 = s.pend1 ∧ t.wstate = s.wstate
  pins : c.kind = .write ∨ c.discard = true → t.PINS = s.PINS

theorem EngineChange.refl (c : EngineCmd) (s : State) : EngineChange c s s :=
  ⟨rfl, List.prefix_rfl, fun _ => ⟨rfl, rfl⟩, fun _ => rfl⟩

theorem EngineChange.trans {c : EngineCmd} {s t u : State} (h : EngineChange c s t) (h' : EngineChange c t u) :
    EngineChange c s u where
  frame := by
    have e := h'.frame
    rw [h.frame] at e
    exact e
  trace := h.trace.trans h'.trace
  read hk := ⟨(h'.read hk).1.trans (h.read hk).1, (h'.read hk).2.trans (h.read hk).2⟩
  pins hp := (h'.pins hp).trans (h.pins hp)

/-- The values R56 and R57 allow in a response. -/
structure Response.Listed (r : Response) : Prop where
  fails : r.cause ≠ .noError → r.done = true ∧ r.ok = false
  checksum : r.cause ≠ .checksum
  going : r.done = false → r.ok = false

/-- Byte 0 of such a response is one of the eight of R57. -/
theorem Response.Listed.byte0_mem {r : Response} (h : r.Listed) : r.byte0 ∈ responseBytes0 := by
  obtain ⟨done, ok, cause, data, raddr⟩ := r
  obtain ⟨h1, h2, h3⟩ := h
  unfold Response.byte0
  cases done <;> cases ok <;> cases cause <;> simp at h1 h2 h3 <;> (dsimp only; decide)

/-- How a step returns: with listed values, and where it is the last with `lastError` and `stage` as R148 says. -/
structure StepResult.Fair (r : StepResult) : Prop where
  fails : r.cause ≠ .noError → r.done = true ∧ r.ok = false
  checksum : r.cause ≠ .checksum
  going : r.done = false → r.ok = false
  ended : r.done = true → r.state.lastError = !r.ok ∧ r.state.stage = 0#4

theorem goOn_fair (n : BitVec 4) (s : State) : (goOn n s).Fair := ⟨by simp, by simp, by simp, by simp⟩

theorem finish_fair (s : State) : (finish s).Fair := ⟨by simp, by simp, by simp, by simp⟩

theorem raise_fair {x : Cause} (hx : x ≠ .checksum) (s : State) : (raise x s).Fair := ⟨by simp, by simpa, by simp, by simp⟩

/-- An Engine command from `s` has come to `t`: it waits in a step that makes a call and has given no response, or it has ended with
one. -/
structure EngineEffect (c : EngineCmd) (s t : State) : Prop where
  change : EngineChange c s t
  outcome : (t.activity = some (.engine c) ∧ t.responses = s.responses ∧ (engineRequest c t).isSome = true) ∨
    (t.activity = none ∧ ∃ r : Response, t.responses = s.responses ++ [r.word] ∧ r.Listed ∧ (r.done = false → c.run = false) ∧
      (r.done = true → t.lastError = !r.ok ∧ t.stage = 0#4))

theorem engineRespond_effect {c : EngineCmd} {s : State} {r : StepResult} (hc : EngineChange c s r.state)
    (hr : r.state.responses = s.responses) (hf : r.Fair) (hd : r.done = false → c.run = false) :
    EngineEffect c s (engineRespond c r) := by
  refine ⟨hc.trans ⟨rfl, List.prefix_rfl, fun _ => ⟨rfl, rfl⟩, fun _ => rfl⟩,
    .inr ⟨rfl, { done := r.done, ok := r.ok, cause := r.cause, data := engineData c r.state, raddr := 0 }, ?_,
      ⟨hf.fails, hf.checksum, hf.going⟩, hd, hf.ended⟩⟩
  simp [engineRespond, hr]

/-- A step that makes no call. -/
theorem engineStep_ret_effect {c : EngineCmd} {s : State} {r : StepResult} (h : engineStep c s = .ret r) :
    EngineChange c s r.state ∧ r.state.responses = s.responses ∧ r.Fair := by
  have hs := engineStep_shape c s
  rw [h] at hs
  cases hs with
  | aborts x hx => exact ⟨⟨rfl, List.prefix_rfl, by simp, by simp⟩, rfl, raise_fair (by rcases hx with rfl | rfl <;> simp) s⟩
  | ends => exact ⟨⟨rfl, List.prefix_rfl, by simp, by simp⟩, rfl, finish_fair s⟩
  | decodes pins hk h5 hd =>
    refine ⟨⟨rfl, List.prefix_rfl, by simp, ?_⟩, rfl, goOn_fair _ _⟩
    rintro (h | h)
    · rw [hk] at h; cases h
    · exact hd h

/-- A step that makes a call, up to the call. -/
theorem engineStep_call_effect {c : EngineCmd} {s s' : State} {q : Request} {k : Answer → State → StepResult}
    (h : engineStep c s = .call q s' k) : EngineChange c s s' ∧ s'.responses = s.responses := by
  obtain ⟨g, w, -, rfl, -, -, hw, -⟩ := engineStep_call_going h
  refine ⟨⟨?_, by simp, fun hk => ⟨by simp, hw hk⟩, by simp⟩, by simp⟩
  rcases Decidable.em (s.stage = 0#4) with h0 | h0
  · rw [clearErrorIfIdle_of_idle s h0]
  · rw [clearErrorIfIdle_of_busy s h0]

theorem engineBegin_effect (c : EngineCmd) (s : State) : EngineEffect c s (engineBegin c s) := by
  unfold engineBegin
  cases h : engineStep c s with
  | call q s' k =>
    obtain ⟨hc, hr⟩ := engineStep_call_effect h
    refine ⟨hc.trans ⟨rfl, List.prefix_rfl, by simp, by simp⟩, .inl ⟨rfl, hr, ?_⟩⟩
    have hw : engineStep c (s'.aside (s'.waitFor (.engine c))) = (engineStep c s').aside (s'.waitFor (.engine c)) :=
      engineStep_aside c s' _
    rw [engineStep_call_idem h] at hw
    show (engineRequest c (s'.aside (s'.waitFor (.engine c)))).isSome = true
    unfold engineRequest
    rw [hw]
    rfl
  | ret r =>
    obtain ⟨hc, hr, hf⟩ := engineStep_ret_effect h
    dsimp only
    cases hb : c.run && !r.done
    · refine engineRespond_effect hc hr hf fun hd => ?_
      simpa [hd] using hb
    · exact engineRespond_effect (r := finish r.state) (hc.trans ⟨rfl, List.prefix_rfl, by simp, by simp⟩) hr (finish_fair _)
        (by simp)

theorem engineGo_effect (c : EngineCmd) (s : State) : EngineEffect c s (engineGo 9 c s) := by
  rw [engineGo_eq 7]; exact engineBegin_effect c s

theorem engineReturn_effect {c : EngineCmd} {s : State} {r : StepResult} (hc : EngineChange c s r.state)
    (hr : r.state.responses = s.responses) (hf : r.Fair) : EngineEffect c s (engineReturn c r) := by
  unfold engineReturn
  cases hb : c.run && !r.done
  · refine engineRespond_effect hc hr hf fun hd => ?_
    simpa [hd] using hb
  · obtain ⟨hc', ho⟩ := engineGo_effect c r.state
    rw [hr] at ho
    exact ⟨hc.trans hc', ho⟩

/-- What the continuation of a call does. -/
theorem Going.on_effect {c : EngineCmd} {g : Going} (hx : ∀ n x, g = .flagged n x → x = .busPresence ∨ x = .selection)
    (hg : ∀ n, g = .second n → c.kind = .write) (a : Answer) (s : State) :
    EngineChange c s (g.on a s).state ∧ (g.on a s).state.responses = s.responses ∧ (g.on a s).Fair := by
  cases g with
  | flagged n x =>
    cases h : a.flag
    · refine ⟨?_, ?_, ?_⟩ <;> simp only [Going.on, h, Bool.false_eq_true, if_false]
      · exact ⟨rfl, List.prefix_rfl, by simp, by simp⟩
      · rfl
      · exact raise_fair (by rcases hx n x rfl with rfl | rfl <;> simp) s
    · refine ⟨?_, ?_, ?_⟩ <;> simp only [Going.on, h, if_true]
      · exact ⟨rfl, List.prefix_rfl, by simp, by simp⟩
      · rfl
      · exact goOn_fair n s
  | sent n => exact ⟨⟨rfl, List.prefix_rfl, by simp [Going.on], by simp [Going.on]⟩, rfl, goOn_fair n s⟩
  | first n => exact ⟨⟨rfl, List.prefix_rfl, by simp [Going.on], by simp [Going.on]⟩, rfl, goOn_fair _ _⟩
  | second n =>
    refine ⟨⟨rfl, List.prefix_rfl, fun hk => ?_, by simp [Going.on]⟩, rfl, goOn_fair _ _⟩
    rw [hg n rfl] at hk; cases hk

/-- An Engine command after one answer. -/
theorem engineAnswer_effect (c : EngineCmd) (a : Answer) (s : State) : EngineEffect c s (engineAnswer c a s) := by
  unfold engineAnswer
  cases h : engineStep c s with
  | ret r =>
    obtain ⟨hc, hr, hf⟩ := engineStep_ret_effect h
    exact engineReturn_effect hc hr hf
  | call q s' k =>
    obtain ⟨hc, hr⟩ := engineStep_call_effect h
    obtain ⟨g, w, rfl, -, -, -, -, hx, hg⟩ := engineStep_call_going h
    obtain ⟨hc', hr', hf⟩ := Going.on_effect hx hg a (s'.log (q.event a))
    refine engineReturn_effect ?_ (hr'.trans hr) hf
    exact (hc.trans ⟨rfl, by simp, by simp, by simp⟩).trans hc'

/-! ### The Directory -/

/-- Whether a command in progress is SCAN. -/
def Activity.isScan (act : Activity) : Bool :=
  match act with
  | .engine _ => false
  | .scanReset => true
  | .scanSearch => true
  | .scanPower _ => true
  | .walkReset _ => false
  | .walkSearch _ _ => false

/-- Whether a command in progress is ADDRIDX. -/
def Activity.isWalk (act : Activity) : Bool :=
  match act with
  | .engine _ => false
  | .scanReset => false
  | .scanSearch => false
  | .scanPower _ => false
  | .walkReset _ => true
  | .walkSearch _ _ => true

/-- SCAN, begun in `s`, has come to `t`: no register of the Engine has changed, the trace has only grown, and the command waits in one
of SCAN's calls and has given no response, or it has ended with a successful one. -/
structure ScanEffect (s t : State) : Prop where
  frame : t = { s with
    deviceCount := t.deviceCount, familyDeviceCount := t.familyDeviceCount, parasiticPowerFlag := t.parasiticPowerFlag
    activity := t.activity, trace := t.trace, responses := t.responses }
  trace : s.trace <+: t.trace
  outcome : (∃ act, t.activity = some act ∧ act.isScan = true ∧ t.responses = s.responses) ∨
    (t.activity = none ∧ t.responses = s.responses ++ [reply true true .noError 0])

/-- ADDRIDX, begun in `s`, has come to `t`: no register has changed, the trace has only grown, and the command waits in one of its calls
and has given no response, or it has ended with an address or with not found. -/
structure WalkEffect (s t : State) : Prop where
  frame : t = { s with activity := t.activity, trace := t.trace, responses := t.responses }
  trace : s.trace <+: t.trace
  outcome : (∃ act, t.activity = some act ∧ act.isWalk = true ∧ t.responses = s.responses) ∨
    (t.activity = none ∧ ∃ (ok : Bool) (a : Address),
      t.responses = s.responses ++ [Response.word { done := true, ok := ok, cause := .noError, data := 0, raddr := a }])

theorem scanStart_effect (s : State) : ScanEffect s (scanStart s) :=
  ⟨rfl, List.prefix_rfl, .inl ⟨_, rfl, rfl, rfl⟩⟩

theorem walkStart_effect (index : Nat) (s : State) : WalkEffect s (walkStart index s) :=
  ⟨rfl, List.prefix_rfl, .inl ⟨_, rfl, rfl, rfl⟩⟩

/-- SCAN after one answer. -/
theorem onAnswer_scan {act : Activity} (h : act.isScan = true) (a : Answer) (s : State) : ScanEffect s (act.onAnswer a s) := by
  cases act with
  | engine c => cases h
  | walkReset index => cases h
  | walkSearch index depth => cases h
  | scanReset => exact ⟨rfl, by simp [Activity.onAnswer, scanAfterReset], .inl ⟨_, rfl, rfl, rfl⟩⟩
  | scanPower b =>
    cases hf : a.flag
    all_goals
      simp only [Activity.onAnswer, scanAfterPower, hf, Bool.false_eq_true, if_false, if_true]
      exact ⟨rfl, by simp, .inl ⟨_, rfl, rfl, rfl⟩⟩
  | scanSearch =>
    cases hf : a.flag
    · simp only [Activity.onAnswer, scanAfterSearch, hf, Bool.false_eq_true, if_false]
      exact ⟨rfl, by simp, .inr ⟨rfl, rfl⟩⟩
    · simp only [Activity.onAnswer, scanAfterSearch, hf, if_true]
      refine ⟨?_, by simp, .inl ⟨_, rfl, ?_, by simp⟩⟩
      · cases hv : validAddress s.cfg a.addr
        · rw [countHit_invalid _ _ (by exact hv)]; rfl
        · rw [countHit_valid _ _ (by exact hv)]; rfl
      · cases hv : validAddress s.cfg a.addr <;> cases hp : s.parasiticPowerFlag <;> simp [hv, hp, Activity.isScan]

/-- The head of the ADDRIDX loop. -/
theorem walkNext_effect (index depth : Nat) (s : State) : WalkEffect s (walkNext index depth s) := by
  unfold walkNext
  by_cases hd : depth ≤ index
  · rw [if_pos hd]; exact ⟨rfl, List.prefix_rfl, .inl ⟨_, rfl, rfl, rfl⟩⟩
  · rw [if_neg hd]; exact ⟨rfl, List.prefix_rfl, .inr ⟨rfl, false, 0, rfl⟩⟩

/-- ADDRIDX after one answer. -/
theorem onAnswer_walk {act : Activity} (h : act.isWalk = true) (a : Answer) (s : State) : WalkEffect s (act.onAnswer a s) := by
  have next : ∀ index depth e, WalkEffect s (walkNext index depth (s.log e)) := by
    intro index depth e
    obtain ⟨h1, h2, h3⟩ := walkNext_effect index depth (s.log e)
    exact ⟨h1, List.IsPrefix.trans (by simp) h2, h3⟩
  cases act with
  | engine c => cases h
  | scanReset => cases h
  | scanSearch => cases h
  | scanPower b => cases h
  | walkReset index => exact next index 0 _
  | walkSearch index depth =>
    cases hf : a.flag
    · simp only [Activity.onAnswer, walkAfterSearch, hf, Bool.false_eq_true, if_false]
      exact ⟨rfl, by simp, .inr ⟨rfl, false, 0, rfl⟩⟩
    · simp only [Activity.onAnswer, walkAfterSearch, hf, if_true]
      by_cases hv : depth = index ∧ validAddress s.cfg a.addr = true
      · rw [if_pos (by exact hv)]
        exact ⟨rfl, by simp, .inr ⟨rfl, true, a.addr, rfl⟩⟩
      · rw [if_neg (by exact hv)]
        exact next index (depth + 1) _

/-! ### A whole command, over the inputs there are -/

/-- A command in progress as far as the provider's answers go: what one answer does to it while it waits, done again and again. `E` says
what it has done since it began in `s`; where it waits no answer is left. -/
theorem drive_effect {E : State → State → Prop} {s : State}
    (hstep : ∀ t act a, E s t → t.activity = some act → E s (act.onAnswer a t)) :
    ∀ (xs : List BusInput) (t : State), onlyAnswers xs = true → E s t →
      ∃ u, E s u ∧ drive xs t = { u with answers := (drive xs t).answers } ∧
        (u.activity.isSome = true → (drive xs t).answers = [])
  | [], t, _, h => ⟨t, h, rfl, fun _ => rfl⟩
  | x :: xs, t, hx, h => by
    cases x with
    | rst u => simp [onlyAnswers] at hx
    | answer a =>
      rcases activity_cases t with ha | ⟨act, ha⟩
      · rw [drive_idle ha]
        exact ⟨t, h, rfl, by simp [ha]⟩
      · rw [drive_cons ha]
        exact drive_effect hstep xs _ (by simpa [onlyAnswers] using hx) (hstep t act a h ha)

theorem engine_run (c : EngineCmd) (s : State) (h : onlyAnswers s.answers = true) :
    ∃ u, EngineEffect c s u ∧ runCommand (engineGo 9 c s) = { u with answers := (runCommand (engineGo 9 c s)).answers } ∧
      (u.activity.isSome = true → (runCommand (engineGo 9 c s)).answers = []) := by
  have hg := engineGo_effect c s
  refine drive_effect (fun t act a ht ha => ?_) _ _ ?_ hg
  · obtain ⟨hc, ⟨h1, h2, -⟩ | ⟨h1, -⟩⟩ := ht
    · rw [h1] at ha; cases ha
      obtain ⟨hc', ho⟩ := engineAnswer_effect c a t
      rw [h2] at ho
      exact ⟨hc.trans hc', ho⟩
    · rw [h1] at ha; cases ha
  · rw [hg.change.frame]; exact h

theorem scan_run (s : State) (h : onlyAnswers s.answers = true) :
    ∃ u, ScanEffect s u ∧ runCommand (scanStart s) = { u with answers := (runCommand (scanStart s)).answers } ∧
      (u.activity.isSome = true → (runCommand (scanStart s)).answers = []) := by
  refine drive_effect (fun t act a ht ha => ?_) _ _ h (scanStart_effect s)
  obtain ⟨hc, htr, ⟨act', h1, h2, h3⟩ | ⟨h1, -⟩⟩ := ht
  · rw [h1] at ha; cases ha
    obtain ⟨hc', htr', ho⟩ := onAnswer_scan h2 a t
    rw [h3] at ho
    refine ⟨?_, htr.trans htr', ho⟩
    generalize act.onAnswer a t = u at hc' ⊢
    rw [hc] at hc'; exact hc'
  · rw [h1] at ha; cases ha

theorem walk_run (index : Nat) (s : State) (h : onlyAnswers s.answers = true) :
    ∃ u, WalkEffect s u ∧ runCommand (walkStart index s) = { u with answers := (runCommand (walkStart index s)).answers } ∧
      (u.activity.isSome = true → (runCommand (walkStart index s)).answers = []) := by
  refine drive_effect (fun t act a ht ha => ?_) _ _ h (walkStart_effect index s)
  obtain ⟨hc, htr, ⟨act', h1, h2, h3⟩ | ⟨h1, -⟩⟩ := ht
  · rw [h1] at ha; cases ha
    obtain ⟨hc', htr', ho⟩ := onAnswer_walk h2 a t
    rw [h3] at ho
    refine ⟨?_, htr.trans htr', ho⟩
    generalize act.onAnswer a t = u at hc' ⊢
    rw [hc] at hc'; exact hc'
  · rw [h1] at ha; cases ha

end Sys2Proof.Machine
end

