-- ==== Sys2Proof/Laws/Step.lean ====
section
/-! SUPPORT. What one step can be, said once, and the four kinds of command. -/

namespace Sys2Proof.Machine

/-- Everything a step that answers a next state can be: a command in progress goes on; nothing is presented; `rst`; a command word
begins its command; a reserved word is answered. -/
theorem step_cases {s t : State} (h : step s = .next t) :
    (∃ act x xs, s.activity = some act ∧ s.answers = x :: xs ∧ t = runCommand s) ∨
    (s.activity = none ∧ s.host = [] ∧ t = s) ∨
    (∃ u rest, s.activity = none ∧ s.host = .rst u :: rest ∧ t = State.takeReset u { s with host := rest }) ∨
    (∃ w rest i, s.activity = none ∧ s.host = .command w :: rest ∧ decode w = .ok i ∧ exec i { s with host := rest } = .next t) ∨
    (∃ w rest e, s.activity = none ∧ s.host = .command w :: rest ∧ decode w = .error e ∧
      illegalCommand { s with host := rest } = .next t) := by
  unfold step fetch at h
  rcases activity_cases s with ha | ⟨act, ha⟩
  · cases hh : s.host with
    | nil =>
      simp only [ha, hh] at h
      cases h
      exact .inr (.inl ⟨ha, rfl, rfl⟩)
    | cons x rest =>
      cases x with
      | rst u =>
        simp only [ha, hh] at h
        cases h
        exact .inr (.inr (.inl ⟨u, rest, ha, rfl, by simp [ha]⟩))
      | command w =>
        simp only [ha, hh] at h
        cases hd : decode w with
        | ok i =>
          simp only [hd] at h
          exact .inr (.inr (.inr (.inl ⟨w, rest, i, ha, rfl, hd, by simpa [ha] using h⟩)))
        | error e =>
          simp only [hd] at h
          exact .inr (.inr (.inr (.inr ⟨w, rest, e, ha, rfl, hd, by simpa [ha] using h⟩)))
  · cases hx : s.answers with
    | nil => simp [ha, hx] at h
    | cons x xs =>
      simp only [ha, hx] at h
      cases h
      exact .inl ⟨act, x, xs, ha, rfl, rfl⟩

/-- Everything an instruction can be: an Engine command, SCAN, ADDRIDX, or a command that makes no call and ends at once without an
error. -/
theorem exec_cases (i : Instr) :
    (i.isEngine = true ∧ ∃ c, ∀ s, exec i s = .next (runCommand (engineGo 9 c s))) ∨
    (i = .scan ∧ ∀ s, exec i s = .next (runCommand (scanStart s))) ∨
    (∃ index, i = .addrIdx index ∧ ∀ s, exec i s = .next (runCommand (walkStart index s))) ∨
    (i.usesBus = false ∧ ∀ s, ∃ ok data, exec i s = .next (s.respond (answered ok data))) := by
  cases i with
  | scan => exact .inr (.inl ⟨rfl, fun _ => rfl⟩)
  | addrIdx index => exact .inr (.inr (.inl ⟨index, rfl, fun _ => rfl⟩))
  | writeRun pins a => exact .inl ⟨rfl, writeRunCmd pins a, fun _ => rfl⟩
  | writeStep pins a => exact .inl ⟨rfl, writeStepCmd pins a, fun _ => rfl⟩
  | readRun a => exact .inl ⟨rfl, readRunCmd a, fun _ => rfl⟩
  | readStep a => exact .inl ⟨rfl, readStepCmd a, fun _ => rfl⟩
  | isConn a => exact .inl ⟨rfl, isConnCmd a, fun _ => rfl⟩
  | nop => exact .inr (.inr (.inr ⟨rfl, fun _ => ⟨_, _, rfl⟩⟩))
  | isValid a => exact .inr (.inr (.inr ⟨rfl, fun _ => ⟨_, _, rfl⟩⟩))
  | isFamily a => exact .inr (.inr (.inr ⟨rfl, fun _ => ⟨_, _, rfl⟩⟩))
  | getCount => exact .inr (.inr (.inr ⟨rfl, fun _ => ⟨_, _, rfl⟩⟩))
  | getFCount => exact .inr (.inr (.inr ⟨rfl, fun _ => ⟨_, _, rfl⟩⟩))
  | getPara => exact .inr (.inr (.inr ⟨rfl, fun _ => ⟨_, _, rfl⟩⟩))
  | getStat => exact .inr (.inr (.inr ⟨rfl, fun _ => ⟨_, _, rfl⟩⟩))

/-- No command's meaning stops. -/
theorem exec_next (i : Instr) (s : State) : ∃ t, exec i s = .next t := by
  cases i <;> exact ⟨_, rfl⟩

end Sys2Proof.Machine
end

