-- ==== Sys2Proof/Tests/Slice0.lean ====
section
/-! SUPPORT. Tests of the model on the vectors of spec/95_test_vectors.md and on words written out from spec/30_encoding.md, the
smoke test of the well-formedness check, and for every obligation with hypotheses a witness that meets them. Expected values are
the spec's. -/

namespace Sys2Proof.Tests

open Sys2Proof.Machine

/-- Address A of spec/95_test_vectors.md. -/
def addrA : Address := addressOfBytes [0x3A, 0x01, 0x02, 0x03, 0x04, 0x05, 0x06, 0x1F]
/-- Address B. -/
def addrB : Address := addressOfBytes [0x28, 0xFF, 0x64, 0x1E, 0x0F, 0x00, 0x00, 0x34]
/-- Address C. -/
def addrC : Address := addressOfBytes [0x3A, 0x11, 0x22, 0x33, 0x44, 0x55, 0x66, 0x00]

/-- A provider answer that is one byte. -/
def byteAnswer (b : Byte) : BusInput := .answer { flag := false, byte := b, addr := 0 }

/-- The reset state with the provider's answers to come. -/
def withAnswers (xs : List BusInput) : State := { State.reset with answers := xs }

/-- The same at a given stage. -/
def atStage (n : BitVec 4) (xs : List BusInput) : State := { withAnswers xs with stage := n }

/-- A block whose host presents one word, with the provider's answers to come. -/
def presenting (w : PortWord) (xs : List BusInput) : State := { withAnswers xs with host := [.command w] }

/-- A register reset to nothing in particular. -/
def someReset : PowerUp := { pend0 := 0xAA, pend1 := 0x55, wstate := 0xFE, PINS := 0b10 }

/-- One observation of the next state. -/
def observe {α : Type} (o : Host.Outcome State Fault Refusal) (f : State → α) : Option α :=
  match o with
  | .next s => some (f s)
  | .fault _ => none
  | .refused _ => none

/-! ## WellFormed: the one check refuses what does not fit its field -/

theorem test_wellFormed_index_255 : (Instr.addrIdx 255).wellFormed = true := by decide
theorem test_wellFormed_refuses_index_256 : (Instr.addrIdx 256).wellFormed = false := by decide

/-! ## Decoding: a word for every command, written out from R51 and R53 (bits from the most significant down: addr, arg, opcode) -/

theorem test_decode_nop : decode 0b00000000 = .ok .nop := by rfl
theorem test_decode_scan : decode 0b00000001 = .ok .scan := by rfl
theorem test_decode_addrIdx : decode 0b1111111100000010 = .ok (.addrIdx 255) := by rfl
theorem test_decode_isValid : decode (wordOfBytes [0x03, 0x7F, 0x3A, 0x11, 0x22, 0x33, 0x44, 0x55, 0x66, 0x00]) =
    .ok (.isValid addrC) := by rfl
theorem test_decode_isFamily : decode (wordOfBytes [0x04, 0x00, 0x28, 0xFF, 0x64, 0x1E, 0x0F, 0x00, 0x00, 0x34]) =
    .ok (.isFamily addrB) := by rfl
theorem test_decode_getCount : decode (wordOfBytes [0x05, 0xAB, 0x01, 0x02, 0x03, 0x04, 0x05, 0x06, 0x07, 0x08]) =
    .ok .getCount := by rfl
theorem test_decode_getFCount : decode 0b00000110 = .ok .getFCount := by rfl
theorem test_decode_getPara : decode 0b00000111 = .ok .getPara := by rfl
theorem test_decode_getStat : decode 0b00001000 = .ok .getStat := by rfl
theorem test_decode_writeRun : decode (wordOfBytes [0x10, 0xFD, 0x3A, 0x01, 0x02, 0x03, 0x04, 0x05, 0x06, 0x1F]) =
    .ok (.writeRun 0b01 addrA) := by rfl
theorem test_decode_writeStep : decode (wordOfBytes [0x11, 0x02, 0x3A, 0x01, 0x02, 0x03, 0x04, 0x05, 0x06, 0x1F]) =
    .ok (.writeStep 0b10 addrA) := by rfl
theorem test_decode_readRun : decode (wordOfBytes [0x12, 0x00, 0x3A, 0x01, 0x02, 0x03, 0x04, 0x05, 0x06, 0x1F]) =
    .ok (.readRun addrA) := by rfl
theorem test_decode_readStep : decode (wordOfBytes [0x13, 0x00, 0x3A, 0x01, 0x02, 0x03, 0x04, 0x05, 0x06, 0x1F]) =
    .ok (.readStep addrA) := by rfl
theorem test_decode_isConn : decode (wordOfBytes [0x14, 0x00, 0x3A, 0x01, 0x02, 0x03, 0x04, 0x05, 0x06, 0x1F]) =
    .ok (.isConn addrA) := by rfl
theorem test_decode_reserved : ∀ b ∈ [(0x09 : Byte), 0x0F, 0x15, 0x20, 0x80, 0xFF],
    decode (wordOfBytes [b]) = .error (.reservedOpcode b) := by decide
theorem test_decodeTableWord_readStep : decodeTableWord 80 0x13 = some (.readStep 0) := by rfl
theorem test_decodeTableWord_reserved : decodeTableWord 80 0x09 = none := by rfl

/-! ## The checksum (V1 to V7) -/

theorem test_crc8_one_byte : (List.range 16).map (fun i => crc8 [BitVec.ofNat 8 i]) =
    [0x00, 0x5E, 0xBC, 0xE2, 0x61, 0x3F, 0xDD, 0x83, 0xC2, 0x9C, 0x7E, 0x20, 0xA3, 0xFD, 0x1F, 0x41] := by decide
theorem test_crc8_seven_bytes : [addrA, addrB, addrC, 0x000000000000003A, 0x0001000000000000, 0x00FFFFFFFFFFFFFF].map
    (fun a => crc8 (addressPrefix a)) = [0x1F, 0x34, 0xD7, 0x9F, 0x5E, 0x14] := by decide

/-! ## Directory and system commands -/

theorem test_scan_V12 :
    observe (exec .scan (withAnswers [flagAnswer true, hitAnswer addrA, flagAnswer false, hitAnswer addrB, flagAnswer true,
      hitAnswer addrC, flagAnswer false])) (fun s => (s.deviceCount, s.familyDeviceCount, s.parasiticPowerFlag, s.trace)) =
    some (2, 1, true, [.resetSearch, .search (some addrA), .powerMode addrA false, .search (some addrB), .powerMode addrB true,
      .search (some addrC), .search none]) := by decide
theorem test_scan_V14 :
    observe (exec .scan (withAnswers [flagAnswer true, hitAnswer addrC, hitAnswer addrB, flagAnswer true, flagAnswer false]))
      (fun s => (s.deviceCount, s.familyDeviceCount, s.parasiticPowerFlag, s.responses)) =
    some (1, 0, true, [wordOfBytes [0x03]]) := by decide
theorem test_addrIdx_V16 :
    observe (exec (.addrIdx 0) (withAnswers [flagAnswer true, hitAnswer addrC, hitAnswer addrA]))
      (fun s => (s.trace, s.responses)) =
    some ([.resetSearch, .search (some addrC)], [wordOfBytes [0x01]]) := by decide
theorem test_addrIdx_V18 :
    observe (exec (.addrIdx 1) (withAnswers [flagAnswer true, hitAnswer addrA, hitAnswer addrB, hitAnswer addrC]))
      (fun s => (s.trace, s.responses)) =
    some ([.resetSearch, .search (some addrA), .search (some addrB)],
      [wordOfBytes [0x03, 0x00, 0x28, 0xFF, 0x64, 0x1E, 0x0F, 0x00, 0x00, 0x34]]) := by decide
theorem test_isValid_V8 : observe (exec (.isValid (addressOfBytes [0x3A, 0x11, 0x22, 0x33, 0x44, 0x55, 0x66, 0xD7])) State.reset)
    State.responses = some [wordOfBytes [0x03]] := by decide
theorem test_isValid_V9 : observe (exec (.isValid addrC) State.reset) State.responses = some [wordOfBytes [0x01]] := by decide
theorem test_isFamily_V10 : observe (exec (.isFamily (addressOfBytes [0x3B, 0x01, 0x02, 0x03, 0x04, 0x05, 0x06, 0x1F])) State.reset)
    State.responses = some [wordOfBytes [0x01]] := by decide
theorem test_isFamily_E2 : observe (exec (.isFamily addrC) State.reset) State.responses = some [wordOfBytes [0x03]] := by decide
theorem test_getCount_V22 : observe (exec .getCount { State.reset with deviceCount := 2 }) State.responses =
    some [wordOfBytes [0x03, 0x02]] := by decide
theorem test_getFCount_V22 : observe (exec .getFCount { State.reset with deviceCount := 2, familyDeviceCount := 1 }) State.responses =
    some [wordOfBytes [0x03, 0x01]] := by decide
theorem test_getPara_V22 : observe (exec .getPara { State.reset with parasiticPowerFlag := true }) State.responses =
    some [wordOfBytes [0x03, 0x01]] := by decide
theorem test_getStat_V38 : observe (exec .getStat (atStage 3 [])) State.responses = some [wordOfBytes [0x03, 0x30]] := by decide
theorem test_getStat_V38a : observe (exec .getStat { State.reset with lastError := true }) (fun s => (s.lastError, s.responses)) =
    some (true, [wordOfBytes [0x03, 0x01]]) := by decide
theorem test_nop_V39 : observe (exec .nop (atStage 5 [])) (fun s => (s.stage, s.trace, s.responses)) =
    some (5, [], [wordOfBytes [0x03]]) := by decide
theorem test_reserved_V40 : observe (step (presenting 0xFF [])) (fun s => (s.trace, s.lastError, s.responses)) =
    some ([], false, [wordOfBytes [0x51]]) := by decide

/-! ## Engine commands -/

theorem test_writeRun_V23b :
    observe (exec (.writeRun 0b01 addrA) (withAnswers [flagAnswer true, flagAnswer true, flagAnswer true, flagAnswer true,
      flagAnswer true, byteAnswer 0xAA, byteAnswer 0x1E, flagAnswer true])) (fun s => (s.trace, s.responses)) =
    some ([.reset true, .select addrA false true, .writeByte 0x5A, .writeByte 0xFE, .writeByte 0x01, .readByte 0xAA,
      .readByte 0x1E, .reset true], [wordOfBytes [0x03]]) := by decide
theorem test_writeRun_V26 :
    observe (exec (.writeRun 0b01 addrA) (withAnswers [flagAnswer true, flagAnswer true, flagAnswer true, flagAnswer true,
      flagAnswer true, byteAnswer 0xFF, byteAnswer 0x1E]))
      (fun s => (s.lastError, s.wstate, s.pend0, s.answers, s.responses)) =
    some (true, 0xFE, 0xFF, [byteAnswer 0x1E], [wordOfBytes [0x31]]) := by decide
theorem test_writeStep_P2_call_5 :
    observe (exec (.writeStep 0b01 addrA) { atStage 4 [flagAnswer true] with wstate := 0xFE })
      (fun s => (s.stage, s.trace, s.responses)) = some (5, [.writeByte 0x01], [wordOfBytes [0x00]]) := by decide
theorem test_writeStep_V44 :
    observe (exec (.writeStep 0b01 addrA) (atStage 1 [flagAnswer false])) (fun s => (s.stage, s.lastError, s.responses)) =
    some (0, true, [wordOfBytes [0x21]]) := by decide
theorem test_readRun_V31 :
    observe (exec (.readRun addrA) { withAnswers [flagAnswer true, flagAnswer true, flagAnswer true, byteAnswer 0x1F,
      flagAnswer true] with PINS := 0b10 }) (fun s => (s.lastError, s.pend0, s.PINS, s.responses)) =
    some (true, 0x1F, 0b10, [wordOfBytes [0x31, 0x02]]) := by decide
theorem test_readRun_P2 :
    observe (exec (.readRun addrA) (withAnswers [flagAnswer true, flagAnswer true, flagAnswer true, byteAnswer 0x1E,
      flagAnswer true])) (fun s => (s.trace, s.PINS, s.responses)) =
    some ([.reset true, .select addrA false true, .writeByte 0xF5, .readByte 0x1E, .reset true], 0b01,
      [wordOfBytes [0x03, 0x01]]) := by decide
theorem test_readStep_V42_call_6 :
    observe (exec (.readStep addrA) { atStage 5 [] with pend0 := 0x2D }) (fun s => (s.stage, s.PINS, s.responses)) =
    some (6, 0b10, [wordOfBytes [0x00, 0x02]]) := by decide
theorem test_readStep_V50 :
    observe (exec (.readStep addrA) (atStage 7 [flagAnswer true])) (fun s => (s.stage, s.lastError, s.trace, s.responses)) =
    some (0, true, [], [wordOfBytes [0x61]]) := by decide
theorem test_isConn_V35 :
    observe (exec (.isConn addrA) { withAnswers [flagAnswer true, flagAnswer true, flagAnswer true, byteAnswer 0x1E,
      flagAnswer true] with PINS := 0b10 }) (fun s => (s.pend0, s.PINS, s.responses)) =
    some (0x1E, 0b10, [wordOfBytes [0x03]]) := by decide
theorem test_isConn_no_presence :
    observe (exec (.isConn addrA) (withAnswers [flagAnswer false])) (fun s => (s.stage, s.lastError, s.responses)) =
    some (0, true, [wordOfBytes [0x11]]) := by decide

/-! ## The step: a presented word, a wait, `rst` -/

theorem test_withFetchWord_runs : observe (step (State.reset.withFetchWord 80 0x05)) State.responses =
    some [wordOfBytes [0x03]] := by decide
theorem test_isConn_waits : observe (step (State.reset.withFetchWord 80 0x14)) (fun s => (s.activity, s.requestPort)) =
    some (some (.engine (isConnCmd 0)), some { op := 0, imm := false, byte := 0, addr := 0 }) := by decide
theorem test_unanswered_request_is_stuck :
    step { State.reset with activity := some (.engine (isConnCmd 0)) } = .fault .noProviderAnswer := by rfl
theorem test_rst_drops_the_command :
    observe (step { presenting 0x01 [flagAnswer true, .rst someReset, flagAnswer true] with deviceCount := 7, lastError := true })
      (fun s => (s.cmdReady, s.deviceCount, s.wstate, s.trace, s.responses)) =
    some (true, 0, 0xFE, [.resetSearch], []) := by decide

/-! ## Witnesses: for every obligation with hypotheses, a state and operands that meet them all -/

/-- An answer that says yes and carries the acknowledgment byte of the defaults. -/
def yes : Answer := { flag := true, byte := 0xAA, addr := 0 }
/-- An answer that says no and carries a well-formed read-result byte. -/
def no : Answer := { flag := false, byte := 0x1E, addr := 0 }

/-- The first as an input of the block. -/
def y : BusInput := .answer yes
/-- The second. -/
def n : BusInput := .answer no

theorem witness_DecodeOfEncodeIsTheCommand :
    (Instr.addrIdx 255).wellFormed = true ∧ (Instr.writeRun 0b11 addrA).wellFormed = true := by decide
theorem witness_DecodedCommandIsWellFormedAndReencodes :
    decode (wordOfBytes [0x02, 0xFF, 0x01]) = .ok (.addrIdx 255) := by rfl
theorem witness_OperandsAreTheWordsFields :
    (wordOfBytes [0x02, 0xFF]).extractLsb' 0 8 = 0x02 ∧ (wordOfBytes [0x10]).extractLsb' 0 8 = 0x10 ∧
    (wordOfBytes [0x11]).extractLsb' 0 8 = 0x11 ∧ (wordOfBytes [0x14]).extractLsb' 0 8 ∈ [(0x03 : Byte), 0x04, 0x12, 0x13, 0x14] := by
  decide
theorem witness_OperandsAreTheWordsFields_ignored :
    (wordOfBytes [0x08, 0x01]).extractLsb' 0 8 = (wordOfBytes [0x08, 0x02]).extractLsb' 0 8 ∧
    (wordOfBytes [0x02, 0x01, 0x05]).extractLsb' 8 8 = (wordOfBytes [0x02, 0x01]).extractLsb' 8 8 ∧
    (wordOfBytes [0x14, 0x01]).extractLsb' 16 64 = (wordOfBytes [0x14, 0x02]).extractLsb' 16 64 ∧
    (wordOfBytes [0x11, 0xFD]).extractLsb' 8 2 = (wordOfBytes [0x11, 0x01]).extractLsb' 8 2 := by decide
theorem witness_ReservedOpcodesAnswerIllegalCommand :
    (presenting 0x09 []).activity = none ∧ (presenting 0x09 []).host = [.command 0x09] ∧
    decode 0x09 = .error (.reservedOpcode 0x09) ∧ decode 0xFF = .error (.reservedOpcode 0xFF) := by
  refine ⟨rfl, rfl, rfl, rfl⟩
theorem witness_RequestChannelFields :
    ∀ k ∈ [(0 : BitVec 4), 1, 2, 3, 4, 5, 6, 7], ∀ c ∈ [writeRunCmd 1 addrA, readRunCmd addrA],
      ({ atStage k [] with activity := some (.engine c), pend0 := 0xAA } : State).stage = k ∧
      ({ atStage k [] with activity := some (.engine c), pend0 := 0xAA } : State).pend0 = Config.default.ackSuccess := by decide
theorem witness_RequestChannelFields_directory :
    ({ State.reset with activity := some (.walkSearch 2 1) } : State).activity = some (.walkSearch 2 1) ∧
    ({ State.reset with activity := some (.scanPower addrA) } : State).activity = some (.scanPower addrA) := by decide
theorem witness_StepRunsTheDecodedCommand :
    (presenting 0x01 []).activity = none ∧ (presenting 0x01 []).host = [.command 0x01] ∧ decode 0x01 = .ok .scan := by
  refine ⟨rfl, rfl, rfl⟩
theorem witness_IdleBlockChangesNothing : State.reset.activity = none ∧ State.reset.host = [] := by decide
theorem witness_OnlyAnUnansweredRequestStopsTheBlock :
    ({ State.reset with activity := some .scanReset } : State).cmdReady = false ∧ State.reset.cmdReady = true := by decide
theorem witness_HostWordsWaitWhileACommandIsInProgress :
    observe (step { presenting 0x00 [.answer yes] with activity := some .scanReset }) State.cmdReady = some false ∧
    observe (step (presenting 0x00 [])) State.cmdReady = some true := by decide
theorem witness_ResetDropsTheCommandAndClearsTheBlock :
    ({ State.reset with host := [.rst someReset] } : State).activity = none ∧
    ({ withAnswers [.rst someReset] with activity := some .scanReset } : State).cmdReady = false := by decide
theorem witness_ACommandThatWaitedGoesOnTheSame :
    observe (exec .scan { State.reset with answers := [.answer yes] }) State.cmdReady = some false ∧
    [flagAnswer false] ≠ [] := by decide
theorem witness_OnlyTheNamedAnswerFieldsAreRead :
    (Activity.engine (writeRunCmd 1 addrA)).request (atStage 0 []) = some .reset ∧
    Activity.scanReset.request State.reset = some .resetSearch ∧ Activity.scanSearch.request State.reset = some .search ∧
    (Activity.engine (writeRunCmd 1 addrA)).request (atStage 1 []) = some (.select addrA false) ∧
    (Activity.engine (writeRunCmd 1 addrA)).request (atStage 2 []) = some (.writeByte 0x5A) := by decide
theorem witness_OnlyTheNamedAnswerFieldsAreRead_bytes :
    (Activity.engine (writeRunCmd 1 addrA)).request (atStage 5 []) = some .readByte ∧
    (Activity.scanPower addrA).request State.reset = some (.powerMode addrA) ∧
    yes.flag = ({ flag := true, byte := 0, addr := 1 } : Answer).flag := by decide
theorem witness_GetStatAnswersStageAndLastError : (atStage 8 []).Inv := by decide
theorem witness_ScanCountsTheValidHits : no.flag = false ∧ { no with addr := addrA }.flag = false := by decide
theorem witness_AddressAtIndexPastTheEndIsNotFound : [addrA].length ≤ 1 ∧ no.flag = false := by decide

/-- The hypotheses of WriteStepOneResetsTheBus, WriteStepTwoSelectsTheDevice, WriteStepThreeSendsTheAccessWriteByte,
WriteStepFourSendsTheStateByte, WriteStepFiveSendsTheComplement, WriteStepSixReadsTheAcknowledgment,
WriteStepEightResetsTheBusAgain, ReadStepOneResetsTheBus, ReadStepTwoSelectsTheDevice, ReadStepThreeSendsTheAccessReadByte,
ReadStepFourReadsTheResultByte and ReadStepFiveResetsTheBusAgain, at stage `k`, for an answer that says yes and one that says
no. -/
theorem witness_steps_with_a_call : ∀ k ∈ [(0 : BitVec 4), 1, 2, 3, 4, 5, 6, 7], ∀ a ∈ [yes, no],
    (atStage k [.answer a]).stage = k ∧ (atStage k [.answer a]).answers = .answer a :: [] := by decide
theorem witness_flags : yes.flag = true ∧ no.flag = false := by decide
theorem witness_WriteStepSevenJudgesTheAcknowledgment :
    ({ atStage 6 [.answer no] with pend0 := 0xAA } : State).stage = 6 ∧
    ({ atStage 6 [.answer no] with pend0 := 0xAA } : State).pend0 = Config.default.ackSuccess ∧
    ({ atStage 6 [.answer no] with pend0 := 0xAA } : State).answers = .answer no :: [] ∧
    ({ atStage 6 [] with pend0 := 0xFF } : State).pend0 ≠ Config.default.ackSuccess := by decide
theorem witness_WriteStepNineReturnsToIdle : (atStage 8 []).stage = 8 ∧ (atStage 8 []).Inv := by decide
theorem witness_ReadStepSixValidatesAndDecodes :
    (atStage 5 []).stage = 5 ∧ (~~~(0x1E : Byte)).extractLsb' 0 4 = (0x1E : Byte).extractLsb' 4 4 ∧
    (~~~(0x1F : Byte)).extractLsb' 0 4 ≠ (0x1F : Byte).extractLsb' 4 4 := by decide
theorem witness_ReadStepSevenReturnsToIdle : (atStage 6 []).stage = 6 ∧ (atStage 6 []).Inv := by decide
theorem witness_StageOutOfRangeAborts :
    6 < (atStage 7 []).stage.toNat ∧ 6 < (atStage 8 []).stage.toNat ∧ 8 < (atStage 9 []).stage.toNat := by decide
theorem witness_WriteRunFromIdle : State.reset.stage = 0 ∧ yes.flag = true ∧ no.flag = false ∧
    yes.byte = State.reset.cfg.ackSuccess ∧ no.byte ≠ State.reset.cfg.ackSuccess := by decide
theorem witness_ReadRunFromIdle : State.reset.stage = 0 ∧ yes.flag = true ∧ no.flag = false ∧
    nibbleCheck no.byte = true ∧ nibbleCheck yes.byte = false := by decide
theorem witness_RunToCompletionIsPollingUntilDone :
    onlyAnswers (List.replicate 8 y) = true ∧ (List.replicate 8 (y)).length = 8 ∧
    onlyAnswers (List.replicate 5 n) = true ∧ (List.replicate 5 (n)).length = 5 ∧
    (atStage 3 (List.replicate 8 y)).answers = List.replicate 8 y ++ [] := by decide
theorem witness_NinePollingCallsWrite : State.reset.stage = 0 ∧ yes.flag = true ∧ yes.byte = State.reset.cfg.ackSuccess ∧
    (withAnswers (List.replicate 8 y)).answers = [y, y, y, y, y,
      y, y, y] ++ [] := by decide
theorem witness_SevenPollingCallsRead : State.reset.stage = 0 ∧ yes.flag = true ∧ nibbleCheck no.byte = true ∧
    (withAnswers [y, y, y, n, y]).answers =
      [y, y, y, n, y] ++ [] := by decide
theorem witness_IsConnIsReadRunWithoutThePins :
    onlyAnswers (List.replicate 5 y) = true ∧
    (atStage 0 (List.replicate 5 y)).answers = List.replicate 5 y ++ [] := by decide
theorem witness_OperandsMatterOnlyAtTheirStep :
    (atStage 0 [y]).answers ≠ [] ∧ (atStage 0 [y]).stage ≠ 1#4 ∧ (atStage 0 [y]).stage ≠ 3#4 := by
  decide
theorem witness_OperandsMatterOnlyAtTheirStep_runs :
    2 ≤ (atStage 2 [y, n, y]).stage.toNat ∧
    observe (exec (.readRun addrA) (atStage 2 [y, n, y])) State.cmdReady = some true ∧
    observe (exec (.isConn addrB) (atStage 2 [y, n, y])) State.cmdReady = some true ∧
    observe (exec (.writeRun 1 addrA) (atStage 2 [y, y, y, y, y, y])) State.cmdReady = some true ∧
    4 ≤ (atStage 4 [y, y, y, y]).stage.toNat ∧
    observe (exec (.writeRun 1 addrA) (atStage 4 [y, y, y, y])) State.cmdReady = some true := by decide
theorem witness_FailureIsReportedTwice :
    observe (exec (.isConn addrA) (withAnswers [flagAnswer false])) State.responses =
      some ([] ++ [reply true false .busPresence 0]) ∧ (reply true false .busPresence 0).getLsbD 0 = true := by decide
theorem witness_PinsWrittenAreReadBackFromAnEcho :
    State.reset.stage = 0 ∧ State.reset.cfg.rdPin0Bit = 0 ∧ State.reset.cfg.rdPin1Bit = 1 ∧
    ∀ pins : BitVec 2, ∃ r ∈ [(0x0F : Byte), 0x1E, 0x2D, 0x3C],
      nibbleCheck r = true ∧ r.getLsbD 0 = (stateByte pins).getLsbD 0 ∧ r.getLsbD 1 = (stateByte pins).getLsbD 1 := by decide
theorem witness_PinsWrittenAreReadBackFromAnEcho_answers :
    yes.flag = true ∧ yes.byte = State.reset.cfg.ackSuccess ∧ nibbleCheck no.byte = true ∧
    no.byte.getLsbD 0 = (stateByte 0b01).getLsbD 0 ∧ no.byte.getLsbD 1 = (stateByte 0b01).getLsbD 1 ∧
    (withAnswers (List.replicate 11 y ++ [n, y])).answers = [y, y, y,
      y, y, y, y, y, y, y, y, n,
      y] ++ [] := by decide
theorem witness_StepKeepsTheInvariant :
    (presenting 0x13 [y]).Inv ∧
    observe (step (presenting 0x13 [y])) State.stage = some 1 := by decide
theorem witness_StepKeepsARequestOutstanding :
    State.reset.Waits ∧ observe (step (presenting 0x13 [])) (fun t => t.requestPort.isSome) = some true := by decide
theorem witness_CommandsChangeOnlyTheirRegisters :
    onlyAnswers (withAnswers [y]).answers = true ∧ Instr.nop.usesBus = false ∧
    observe (exec (.addrIdx 3) (withAnswers [y])) State.cmdReady = some false := by decide
theorem witness_EveryCommandEndsWithOneResponse : onlyAnswers (withAnswers [y, n]).answers = true := by decide
theorem witness_ResponsesAreOfTheListedKinds :
    observe (exec (.readStep addrA) (withAnswers [y])) State.responses = some ([] ++ [reply false false .noError 0]) ∧
    observe (exec (.readStep addrA) (withAnswers [n])) State.responses = some ([] ++ [reply true false .busPresence 0]) := by
  decide
theorem witness_StepKeepsConfigurationAndHistory :
    observe (step (presenting 0x13 [y])) State.trace = some [.reset true] := by decide
theorem witness_DirectoryAndEngineShareNoRegister :
    onlyAnswers (withAnswers [y]).answers = true ∧ (Instr.writeStep 1 addrA).isEngine = true ∧
    Instr.scan.isEngine = false ∧ Instr.scan ≠ .getStat ∧
    observe (exec .scan (withAnswers [y])) State.trace = some [.resetSearch] := by decide

end Sys2Proof.Tests
end

section
/-! The rules about the state as a whole: what `rst` leaves (R160, R161), R21 as an invariant, and that the configuration is fixed and
the histories only grow (R11 (a), R44, R48). -/

namespace Sys2Proof.Machine

/-! ### Steps from what they start with -/

theorem step_of_idle_rst {s : State} {u : PowerUp} {rest : List HostInput} (ha : s.activity = none) (hh : s.host = .rst u :: rest) :
    step s = .next (State.takeReset u { s with host := rest }) := by
  simp only [step, fetch, ha, hh]

theorem step_of_waiting {s : State} {act : Activity} {x : BusInput} {xs : List BusInput} (ha : s.activity = some act)
    (hx : s.answers = x :: xs) : step s = .next (runCommand s) := by
  simp only [step, fetch, ha, hx]

/-- `rst` at a wait: the command is dropped and the later inputs are kept. -/
theorem runCommand_of_rst {s : State} {act : Activity} {u : PowerUp} {rest : List BusInput} (ha : s.activity = some act)
    (hx : s.answers = .rst u :: rest) : runCommand s = { s.takeReset u with answers := rest } := by
  unfold runCommand
  rw [hx, drive_cons ha]
  exact drive_idle (takeReset_activity s u) rest

/-- `rst` leaves the state after power-on, but for what is not the block's to reset. -/
theorem takeReset_eq_powerOn (s : State) (u : PowerUp) : s.takeReset u = { State.powerOn s.cfg u with
    host := s.host, answers := s.answers, trace := s.trace, responses := s.responses } := rfl

/-! ### What every step keeps -/

/-- `P` is kept by each of the pieces a step is made of. -/
structure StepClosed (P : State → Prop) : Prop where
  inputs : ∀ (s : State) host answers, P s → P { s with host := host, answers := answers }
  takeReset : ∀ (s : State) u, P s → P (s.takeReset u)
  respond : ∀ (s : State) r, P s → P (s.respond r)
  engineGo : ∀ c s, P s → P (engineGo 9 c s)
  scanStart : ∀ s, P s → P (scanStart s)
  walkStart : ∀ index s, P s → P (walkStart index s)
  onAnswer : ∀ (act : Activity) a s, P s → P (act.onAnswer a s)

namespace StepClosed

variable {P : State → Prop} (hP : StepClosed P) {s t : State}
include hP

theorem of_onBusInput (act : Activity) (x : BusInput) (hs : P s) : P (onBusInput act x s) := by
  cases x with
  | answer a => exact hP.onAnswer act a s hs
  | rst u => exact hP.takeReset s u hs

theorem of_runCommand (hs : P s) : P (runCommand s) :=
  drive_induction (ok := fun _ => True) (fun s xs => hP.inputs s s.host xs) (fun act x _ _ _ => hP.of_onBusInput act x) _ _
    (fun _ _ => trivial) hs

theorem of_exec {i : Instr} (h : exec i s = .next t) (hs : P s) : P t := by
  rcases exec_cases i with ⟨-, c, he⟩ | ⟨-, he⟩ | ⟨index, -, he⟩ | ⟨-, he⟩
  · rw [he] at h; cases h; exact hP.of_runCommand (hP.engineGo c s hs)
  · rw [he] at h; cases h; exact hP.of_runCommand (hP.scanStart s hs)
  · rw [he] at h; cases h; exact hP.of_runCommand (hP.walkStart index s hs)
  · obtain ⟨ok, data, he⟩ := he s
    rw [he] at h; cases h; exact hP.respond s _ hs

/-- What the pieces keep, a step keeps. -/
theorem of_step (h : step s = .next t) (hs : P s) : P t := by
  have hhost : ∀ rest, P { s with host := rest } := fun rest => hP.inputs s rest s.answers hs
  rcases step_cases h with ⟨act, x, xs, -, -, rfl⟩ | ⟨-, -, rfl⟩ | ⟨u, rest, -, -, rfl⟩ | ⟨w, rest, i, -, -, -, he⟩ |
    ⟨w, rest, e, -, -, -, he⟩
  · exact hP.of_runCommand hs
  · exact hs
  · exact hP.takeReset _ u (hhost rest)
  · exact hP.of_exec he (hhost rest)
  · cases he; exact hP.respond _ _ (hhost rest)

end StepClosed

/-! ### R21 (a) and (b): the Engine -/

section engineInvariant
variable {c : EngineCmd} {s : State}

/-- With the Engine idle R21 is about the counters alone. -/
theorem inv_of_stage_zero {t : State} (hs : s.Inv) (hstage : t.stage = 0#4) (hd : t.deviceCount = s.deviceCount)
    (hf : t.familyDeviceCount = s.familyDeviceCount) : t.Inv := by
  obtain ⟨-, -, hcount⟩ := hs
  exact ⟨by simp [hstage], fun h => absurd hstage h, by rwa [hd, hf]⟩

theorem raise_inv (x : Cause) (hs : s.Inv) : (raise x s).state.Inv := inv_of_stage_zero hs rfl rfl rfl

theorem finish_inv (hs : s.Inv) : (finish s).state.Inv := inv_of_stage_zero hs rfl rfl rfl

theorem goOn_inv {n : BitVec 4} (hs : s.Inv) (hn : n.toNat ≤ 8) (he : s.lastError = false) : (goOn n s).state.Inv := by
  obtain ⟨-, -, hcount⟩ := hs
  exact ⟨hn, fun _ => he, hcount⟩

/-- After the prologue of R90 `lastError` is 0 in every state that meets R21, idle or not. -/
theorem clearErrorIfIdle_lastError_of_inv (hs : s.Inv) : s.clearErrorIfIdle.lastError = false := by
  obtain ⟨-, herr, -⟩ := hs
  rw [clearErrorIfIdle_lastError]
  split
  · rfl
  · exact herr ‹_›

theorem clearErrorIfIdle_inv (hs : s.Inv) : s.clearErrorIfIdle.Inv := by
  have ⟨hstage, _, hcount⟩ := hs
  exact ⟨by simpa using hstage, fun _ => clearErrorIfIdle_lastError_of_inv hs, by simpa using hcount⟩

theorem engineStep_ret_inv {r : StepResult} (h : engineStep c s = .ret r) (hs : s.Inv) : r.state.Inv := by
  have shape := engineStep_shape c s
  rw [h] at shape
  cases shape with
  | aborts x => exact raise_inv x hs
  | ends => exact finish_inv hs
  | decodes pins hk h5 =>
    have ⟨_, herr, _⟩ := hs
    exact goOn_inv (s := { s with PINS := pins }) hs (by decide) (herr (by simp [h5]))

/-- A step that makes a call keeps R21 up to the call, and goes on to a state that meets it. -/
theorem engineStep_call_inv {s' : State} {q : Request} {k : Answer → State → StepResult} (h : engineStep c s = .call q s' k)
    (hs : s.Inv) : s'.Inv ∧ ∀ a e, (k a (s'.log e)).state.Inv := by
  obtain ⟨g, w, rfl, rfl, hlt, htarget, -⟩ := engineStep_call_going h
  have hinv : { s.clearErrorIfIdle with wstate := w }.Inv := clearErrorIfIdle_inv hs
  have herr : { s.clearErrorIfIdle with wstate := w }.lastError = false := clearErrorIfIdle_lastError_of_inv hs
  have hle : g.target.toNat ≤ 8 := by rw [htarget]; bv_omega
  refine ⟨hinv, fun a e => ?_⟩
  rcases Going.on_cases g a (State.log e { s.clearErrorIfIdle with wstate := w }) with ⟨b, b', hgo⟩ | ⟨n, x, -, hgo⟩
  · rw [hgo]; exact goOn_inv hinv hle herr
  · rw [hgo]; exact raise_inv x hinv

theorem engineRespond_inv {r : StepResult} (hr : r.state.Inv) : (engineRespond c r).Inv := hr

theorem engineGo_inv (n : Nat) (hs : s.Inv) : (engineGo n c s).Inv := by
  induction n generalizing s with
  | zero => exact hs
  | succ n ih =>
    unfold engineGo
    cases h : engineStep c s with
    | call q s' k => exact (engineStep_call_inv h hs).1
    | ret r =>
      have hr := engineStep_ret_inv h hs
      dsimp only
      split
      · exact ih hr
      · exact engineRespond_inv hr

theorem engineReturn_inv {r : StepResult} (hr : r.state.Inv) : (engineReturn c r).Inv := by
  unfold engineReturn
  split
  · exact engineGo_inv 9 hr
  · exact engineRespond_inv hr

theorem engineAnswer_inv (a : Answer) (hs : s.Inv) : (engineAnswer c a s).Inv := by
  unfold engineAnswer
  cases h : engineStep c s with
  | call q s' k => exact engineReturn_inv ((engineStep_call_inv h hs).2 a _)
  | ret r => exact engineReturn_inv (engineStep_ret_inv h hs)

end engineInvariant

/-! ### R21 (c): the Directory -/

theorem satInc_toNat (b : Byte) : (satInc b).toNat = min (b.toNat + 1) 255 := by
  unfold satInc
  split <;> bv_omega

/-- A hit of the family counts in both counters, another valid hit in `deviceCount` alone, and both saturate at the same value. -/
theorem countHit_inv (a : Address) {s : State} (hs : s.Inv) : (countHit a s).Inv := by
  have ⟨hstage, herr, hcount⟩ := hs
  cases hv : validAddress s.cfg a
  · rw [countHit_invalid _ _ hv]; exact hs
  · rw [countHit_valid _ _ hv]
    refine ⟨hstage, herr, ?_⟩
    have := s.familyDeviceCount.isLt
    cases inFamily s.cfg a <;> simp only [cond_true, cond_false, satInc_toNat] <;> omega

theorem onAnswer_inv (act : Activity) (a : Answer) (s : State) (hs : s.Inv) : (act.onAnswer a s).Inv := by
  cases act with
  | engine c => exact engineAnswer_inv a hs
  | scanReset => exact hs
  | scanSearch =>
    simp only [Activity.onAnswer, scanAfterSearch]
    split
    · exact countHit_inv a.addr (s := s.log _) hs
    · exact hs
  | scanPower b =>
    simp only [Activity.onAnswer, scanAfterPower]
    split <;> exact hs
  | walkReset | walkSearch => rw [(onAnswer_walk rfl a s).frame]; exact hs

/-! ### R21 of the whole machine -/

theorem powerOn_inv (cfg : Config) (u : PowerUp) : (State.powerOn cfg u).Inv := ⟨Nat.zero_le 8, fun _ => rfl, le_rfl⟩

theorem inv_stepClosed : StepClosed State.Inv where
  inputs _ _ _ hs := hs
  takeReset s u _ := powerOn_inv s.cfg u
  respond _ _ hs := hs
  engineGo _ _ hs := engineGo_inv 9 hs
  scanStart _ := fun ⟨hstage, herr, _⟩ => ⟨hstage, herr, le_rfl⟩
  walkStart _ _ hs := hs
  onAnswer := onAnswer_inv

/-! ### The configuration and the histories -/

/-- `t` is a later state than `s` of the same machine, as far as its configuration and its record of the ports say. -/
structure State.Extends (s t : State) : Prop where
  cfg : t.cfg = s.cfg
  trace : s.trace <+: t.trace
  responses : s.responses <+: t.responses

namespace State.Extends

theorem refl (s : State) : s.Extends s := ⟨rfl, List.prefix_rfl, List.prefix_rfl⟩

theorem trans {s t u : State} (h : s.Extends t) (h' : t.Extends u) : s.Extends u :=
  ⟨h'.cfg.trans h.cfg, h.trace.trans h'.trace, h.responses.trans h'.responses⟩

end State.Extends

theorem EngineEffect.extends {c : EngineCmd} {s t : State} (h : EngineEffect c s t) : s.Extends t where
  cfg := by rw [h.change.frame]
  trace := h.change.trace
  responses := by
    obtain ⟨-, hr, -⟩ | ⟨-, r, hr, -⟩ := h.outcome <;> rw [hr]
    exact List.prefix_append ..

theorem ScanEffect.extends {s t : State} (h : ScanEffect s t) : s.Extends t where
  cfg := by rw [h.frame]
  trace := h.trace
  responses := by
    obtain ⟨act, -, -, hr⟩ | ⟨-, hr⟩ := h.outcome <;> rw [hr]
    exact List.prefix_append ..

theorem WalkEffect.extends {s t : State} (h : WalkEffect s t) : s.Extends t where
  cfg := by rw [h.frame]
  trace := h.trace
  responses := by
    obtain ⟨act, -, -, hr⟩ | ⟨-, ok, a, hr⟩ := h.outcome <;> rw [hr]
    exact List.prefix_append ..

theorem onAnswer_extends (act : Activity) (a : Answer) (s : State) : s.Extends (act.onAnswer a s) := by
  cases act with
  | engine c => exact (engineAnswer_effect c a s).extends
  | scanReset | scanSearch | scanPower => exact (onAnswer_scan rfl a s).extends
  | walkReset | walkSearch => exact (onAnswer_walk rfl a s).extends

theorem extends_stepClosed (s : State) : StepClosed s.Extends where
  inputs _ _ _ h := h.trans ⟨rfl, List.prefix_rfl, List.prefix_rfl⟩
  takeReset _ _ h := h.trans ⟨rfl, List.prefix_rfl, List.prefix_rfl⟩
  respond _ _ h := h.trans ⟨rfl, List.prefix_rfl, List.prefix_append ..⟩
  engineGo c t h := h.trans (engineGo_effect c t).extends
  scanStart t h := h.trans (scanStart_effect t).extends
  walkStart index t h := h.trans (walkStart_effect index t).extends
  onAnswer act a t h := h.trans (onAnswer_extends act a t)

/-! ### The obligations -/

/-- Settles O52: R21 is kept by every piece a step is made of. -/
theorem stepKeepsTheInvariant : Obligations.StepKeepsTheInvariant :=
  fun _ _ hs h => inv_stepClosed.of_step h hs

/-- Settles O58: every piece a step is made of extends the state it starts from. -/
theorem stepKeepsConfigurationAndHistory : Obligations.StepKeepsConfigurationAndHistory := by
  intro s t h
  obtain ⟨hcfg, htrace, hresponses⟩ := (extends_stepClosed s).of_step h (State.Extends.refl s)
  exact ⟨hcfg, htrace, hresponses⟩

/-- Settles O12: `rst` is `takeReset` in both places where it can come, which is the state after power-on. -/
theorem resetDropsTheCommandAndClearsTheBlock : Obligations.ResetDropsTheCommandAndClearsTheBlock := by
  refine ⟨fun cfg u => ⟨rfl, rfl, rfl, rfl, rfl, rfl, rfl, rfl⟩, fun s u rest ha hh => ?_, fun s u rest hc hx => ?_⟩
  · rw [step_of_idle_rst ha hh, takeReset_eq_powerOn]
  · obtain ha | ⟨act, ha⟩ := activity_cases s
    · simp [State.cmdReady, ha] at hc
    · rw [step_of_waiting ha hx, runCommand_of_rst ha hx, takeReset_eq_powerOn]

/-- Settles O53: after reset the Engine is idle and both counters are 0. -/
theorem resetHasTheInvariant : Obligations.ResetHasTheInvariant :=
  ⟨powerOn_inv _ _, powerOn_inv⟩

end Sys2Proof.Machine
end

section
/-! The host's inputs and the provider's answers: what a step takes of them (R47, R50), a run cut at a wait (R42, R44, R171), and the
fields of an answer that are read (R34, R59). -/

namespace Sys2Proof.Machine

/-! ### What a command does first -/

/-- An Engine command's start does not look at the answers to come. -/
theorem engineGo_answers (c : EngineCmd) (s : State) (xs : List BusInput) :
    engineGo 9 c { s with answers := xs } = { engineGo 9 c s with answers := xs } := by
  have h : engineGo 9 c (s.beside { s with answers := xs }) = (engineGo 9 c s).beside { s with answers := xs } := by
    simp only [engineGo_eq 7, engineBegin_beside]
  refine h.trans ?_
  rw [engineGo_beside_self]
  rfl

/-- Every command either runs from a start that neither looks at the provider's inputs nor touches what the host presents, or ends at
once with a response. -/
theorem exec_start_or_respond (i : Instr) :
    (∃ start : State → State, (∀ s, exec i s = .next (runCommand (start s))) ∧ (∀ s, (start s).host = s.host) ∧
      ∀ s xs, start { s with answers := xs } = { start s with answers := xs }) ∨
    (∀ s, ∃ r, exec i s = .next (s.respond r)) := by
  rcases exec_cases i with ⟨-, c, he⟩ | ⟨-, he⟩ | ⟨index, -, he⟩ | ⟨-, he⟩
  · exact .inl ⟨engineGo 9 c, he, fun s => by rw [engineGo_beside_self]; rfl, engineGo_answers c⟩
  · exact .inl ⟨scanStart, he, fun _ => rfl, fun _ _ => rfl⟩
  · exact .inl ⟨walkStart index, he, fun _ => rfl, fun _ _ => rfl⟩
  · exact .inr fun s => let ⟨_, _, h⟩ := he s; ⟨_, h⟩

/-- No command touches what the host presents. -/
theorem exec_host {i : Instr} {s t : State} (h : exec i s = .next t) : t.host = s.host := by
  rcases exec_start_or_respond i with ⟨start, he, hhost, -⟩ | he
  · rw [he] at h; cases h; exact (drive_host ..).trans (hhost s)
  · obtain ⟨r, he⟩ := he s
    rw [he] at h; cases h; rfl

/-! ### A run cut at a wait -/

/-- A run that waits where its inputs end is gone on with by the next step, whatever inputs come then. -/
theorem step_after_wait {s t : State} {xs ys : List BusInput} (ht : runCommand { s with answers := xs } = t)
    (hwait : t.cmdReady = false) (hys : ys ≠ []) :
    step { t with answers := ys } = .next (runCommand { s with answers := xs ++ ys }) := by
  have ht' : drive xs s = t := (drive_answers xs xs s).symm.trans ht
  have hcut : runCommand { s with answers := xs ++ ys } = runCommand { t with answers := ys } := by
    show drive (xs ++ ys) { s with answers := xs ++ ys } = drive ys { t with answers := ys }
    rw [drive_answers, drive_answers ys, drive_append, ht', hwait, if_neg Bool.false_ne_true]
  obtain ⟨y, ys, rfl⟩ := List.exists_cons_of_ne_nil hys
  obtain ha | ⟨act, ha⟩ := activity_cases t
  · simp [State.cmdReady, ha] at hwait
  · rw [hcut, step_of_waiting (s := { t with answers := y :: ys }) ha rfl]

/-! ### The fields of an answer that are read

The bus trace records of an answer what R48 and R59 name, so "only the named fields are read" is: two answers with the same event have
the same effect. -/

/-- The step goes on the same with two answers that its call records the same. -/
def StepProg.ReadsEvent (p : StepProg) : Prop :=
  match p with
  | .ret _ => True
  | .call r _ k => ∀ a b, r.event a = r.event b → k a = k b

section calls
variable (s : State) (n : BitVec 4) (x : Cause)

theorem flagged_on_congr {a b : Answer} (h : a.flag = b.flag) : (Going.flagged n x).on a = (Going.flagged n x).on b := by
  funext s
  simp only [Going.on, h]

theorem reset_readsEvent : (StepProg.call .reset s (Going.flagged n x).on).ReadsEvent :=
  fun _ _ h => flagged_on_congr n x (Event.reset.inj h)

theorem select_readsEvent (addr : Address) (imm : Bool) :
    (StepProg.call (.select addr imm) s (Going.flagged n x).on).ReadsEvent := by
  intro a b h
  obtain ⟨-, -, hflag⟩ := Event.select.inj h
  exact flagged_on_congr n x hflag

theorem sent_readsEvent (r : Request) : (StepProg.call r s (Going.sent n).on).ReadsEvent := fun _ _ _ => rfl

/-- The byte is read, whichever register it goes to. -/
theorem readByte_readsEvent {g : Going} (hg : g = .first n ∨ g = .second n) : (StepProg.call .readByte s g.on).ReadsEvent := by
  intro a b h
  funext s
  rcases hg with rfl | rfl <;> simp only [Going.on, Event.readByte.inj h]

end calls

theorem writeStep_readsEvent (c : EngineCmd) (s : State) : (writeStep c s).ReadsEvent := by
  unfold writeStep
  split
  · exact reset_readsEvent s 1 .busPresence
  · exact select_readsEvent s 2 .selection c.addr s.cfg.selectImmediate
  · exact sent_readsEvent s 3 _
  · exact sent_readsEvent _ 4 _
  · exact sent_readsEvent s 5 _
  · exact readByte_readsEvent s 6 (.inl rfl)
  · unfold writeStep7
    split
    · exact readByte_readsEvent s 7 (.inr rfl)
    · trivial
  · exact reset_readsEvent s 8 .busPresence
  · trivial
  · trivial

theorem readStep_readsEvent (c : EngineCmd) (s : State) : (readStep c s).ReadsEvent := by
  unfold readStep
  split
  · exact reset_readsEvent s 1 .busPresence
  · exact select_readsEvent s 2 .selection c.addr s.cfg.selectImmediate
  · exact sent_readsEvent s 3 _
  · exact readByte_readsEvent s 4 (.inl rfl)
  · exact reset_readsEvent s 5 .busPresence
  · unfold readStep6
    split <;> trivial
  · trivial
  · trivial

theorem engineStep_readsEvent (c : EngineCmd) (s : State) : (engineStep c s).ReadsEvent := by
  unfold engineStep
  split
  · trivial
  · cases c.kind
    · exact writeStep_readsEvent c _
    · exact readStep_readsEvent c _

theorem engineAnswer_congr {c : EngineCmd} {s : State} {r : Request} {a b : Answer} (hr : engineRequest c s = some r)
    (h : r.event a = r.event b) : engineAnswer c a s = engineAnswer c b s := by
  have hreads := engineStep_readsEvent c s
  unfold engineRequest at hr
  unfold engineAnswer
  cases hp : engineStep c s with
  | ret => rfl
  | call q s' k =>
    rw [hp] at hr hreads
    cases hr
    simp only [h, hreads a b h]

/-- A `search` event says whether there was a hit and which. -/
theorem search_event_eq_iff {a b : Answer} :
    Request.search.event a = Request.search.event b ↔ a.flag = b.flag ∧ (a.flag = true → a.addr = b.addr) := by
  cases ha : a.flag <;> cases hb : b.flag <;> simp [Request.event, ha, hb]

theorem scanAfterSearch_congr {a b : Answer} (h : Request.search.event a = Request.search.event b) (s : State) :
    scanAfterSearch a s = scanAfterSearch b s := by
  obtain ⟨hflag, haddr⟩ := search_event_eq_iff.mp h
  cases ha : a.flag with
  | false => simp only [scanAfterSearch, h, ← hflag, ha, Bool.false_eq_true, if_false]
  | true => simp only [scanAfterSearch, h, ← hflag, haddr ha]

theorem walkAfterSearch_congr {a b : Answer} (h : Request.search.event a = Request.search.event b) (index depth : Nat) (s : State) :
    walkAfterSearch index depth a s = walkAfterSearch index depth b s := by
  obtain ⟨hflag, haddr⟩ := search_event_eq_iff.mp h
  cases ha : a.flag with
  | false => simp only [walkAfterSearch, h, ← hflag, ha, Bool.false_eq_true, if_false]
  | true => simp only [walkAfterSearch, h, ← hflag, haddr ha]

/-- Of an answer the block reads no more than the trace records. -/
theorem onAnswer_congr {act : Activity} {s : State} {r : Request} {a b : Answer} (hr : act.request s = some r)
    (h : r.event a = r.event b) : act.onAnswer a s = act.onAnswer b s := by
  cases act with
  | engine c => exact engineAnswer_congr hr h
  | scanReset | walkReset => rfl
  | scanSearch => cases hr; exact scanAfterSearch_congr h s
  | scanPower addr =>
    cases hr
    obtain ⟨-, hflag⟩ := Event.powerMode.inj h
    simp only [Activity.onAnswer, scanAfterPower, h, hflag]
  | walkSearch index depth => cases hr; exact walkAfterSearch_congr h index depth s

/-! ### The obligations -/

/-- Settles O11: a run and a response leave what the host presents, and only a step with no command in progress takes its first. -/
theorem hostWordsWaitWhileACommandIsInProgress : Obligations.HostWordsWaitWhileACommandIsInProgress := by
  intro s t h
  rcases step_cases h with ⟨act, x, xs, ha, -, rfl⟩ | ⟨ha, hh, rfl⟩ | ⟨u, rest, ha, hh, rfl⟩ | ⟨w, rest, i, ha, hh, -, he⟩ |
    ⟨w, rest, e, ha, hh, -, he⟩
  · simp [State.cmdReady, ha, runCommand]
  · simp [State.cmdReady, ha, hh]
  · simp [State.cmdReady, ha, hh]
  · simp [State.cmdReady, ha, hh, exec_host he]
  · cases he
    simp [State.cmdReady, ha, hh]

/-- Settles O13: a command that waits is a run that is cut where its inputs end. -/
theorem aCommandThatWaitedGoesOnTheSame : Obligations.ACommandThatWaitedGoesOnTheSame := by
  intro i s t xs ys h hwait hys
  rcases exec_start_or_respond i with ⟨start, he, -, hans⟩ | he
  · rw [he, hans] at h ⊢
    exact (step_after_wait (Host.Outcome.next.inj h) hwait hys).symm
  · obtain ⟨r, he⟩ := he { s with answers := xs }
    rw [he] at h
    cases h
    simp [State.cmdReady] at hwait

/-- Settles O14: answers that agree in the named field have the same event. -/
theorem onlyTheNamedAnswerFieldsAreRead : Obligations.OnlyTheNamedAnswerFieldsAreRead :=
  fun _ _ _ _ =>
    ⟨fun hr hflag => onAnswer_congr hr (congrArg Event.reset hflag),
      fun hr => onAnswer_congr hr rfl,
      fun hr hflag haddr => onAnswer_congr hr (search_event_eq_iff.mpr ⟨hflag, haddr⟩),
      fun addr imm hr hflag => onAnswer_congr hr (congrArg (Event.select addr imm) hflag),
      fun _ hr => onAnswer_congr hr rfl,
      fun hr hbyte => onAnswer_congr hr (congrArg Event.readByte hbyte),
      fun addr hr hflag => onAnswer_congr hr (congrArg (Event.powerMode addr) hflag)⟩

end Sys2Proof.Machine
end

section
/-! Words: the decoder and the encoder (R51 to R54), the fields of a response word (R55, R56) and the nibble check (R63). -/

namespace Sys2Proof

/-! ### What the decoder makes of each opcode -/

section decode
variable {w : PortWord}

theorem decode_nop (h : opcodeField w = 0x00) : decode w = .ok .nop := by simp [decode, h]
theorem decode_scan (h : opcodeField w = 0x01) : decode w = .ok .scan := by simp [decode, h]
theorem decode_addrIdx (h : opcodeField w = 0x02) : decode w = .ok (.addrIdx (argField w).toNat) := by simp [decode, h]
theorem decode_isValid (h : opcodeField w = 0x03) : decode w = .ok (.isValid (addrField w)) := by simp [decode, h]
theorem decode_isFamily (h : opcodeField w = 0x04) : decode w = .ok (.isFamily (addrField w)) := by simp [decode, h]
theorem decode_getCount (h : opcodeField w = 0x05) : decode w = .ok .getCount := by simp [decode, h]
theorem decode_getFCount (h : opcodeField w = 0x06) : decode w = .ok .getFCount := by simp [decode, h]
theorem decode_getPara (h : opcodeField w = 0x07) : decode w = .ok .getPara := by simp [decode, h]
theorem decode_getStat (h : opcodeField w = 0x08) : decode w = .ok .getStat := by simp [decode, h]
theorem decode_writeRun (h : opcodeField w = 0x10) : decode w = .ok (.writeRun (pinsField w) (addrField w)) := by simp [decode, h]
theorem decode_writeStep (h : opcodeField w = 0x11) : decode w = .ok (.writeStep (pinsField w) (addrField w)) := by
  simp [decode, h]
theorem decode_readRun (h : opcodeField w = 0x12) : decode w = .ok (.readRun (addrField w)) := by simp [decode, h]
theorem decode_readStep (h : opcodeField w = 0x13) : decode w = .ok (.readStep (addrField w)) := by simp [decode, h]
theorem decode_isConn (h : opcodeField w = 0x14) : decode w = .ok (.isConn (addrField w)) := by simp [decode, h]

/-- A word decodes to a command of its own opcode, and its 8-bit index is a well-formed one. -/
theorem opcode_and_wellFormed_of_decode {i : Instr} (h : decode w = .ok i) : i.opcode = opcodeField w ∧ i.wellFormed = true := by
  unfold decode at h
  split at h <;> cases h
  case h_3 hop => exact ⟨(BitVec.eq_of_toNat_eq hop).symm, decide_eq_true (argField w).isLt⟩
  all_goals exact ⟨(BitVec.eq_of_toNat_eq ‹_›).symm, rfl⟩

end decode

/-! ### The fields each format reads, and no other (R52 (d)) -/

section congr
variable {w w' : PortWord} (hop : opcodeField w = opcodeField w')
include hop

theorem decode_congr_of_no_operand (h : opcodeField w ∈ [(0x00 : Byte), 0x01, 0x05, 0x06, 0x07, 0x08]) : decode w = decode w' := by
  simp only [List.mem_cons, List.not_mem_nil, or_false] at h
  rcases h with h | h | h | h | h | h
  · rw [decode_nop h, decode_nop (hop ▸ h)]
  · rw [decode_scan h, decode_scan (hop ▸ h)]
  · rw [decode_getCount h, decode_getCount (hop ▸ h)]
  · rw [decode_getFCount h, decode_getFCount (hop ▸ h)]
  · rw [decode_getPara h, decode_getPara (hop ▸ h)]
  · rw [decode_getStat h, decode_getStat (hop ▸ h)]

theorem decode_congr_of_index (h : opcodeField w = 0x02) (harg : argField w = argField w') : decode w = decode w' := by
  rw [decode_addrIdx h, decode_addrIdx (hop ▸ h), harg]

theorem decode_congr_of_address (h : opcodeField w ∈ [(0x03 : Byte), 0x04, 0x12, 0x13, 0x14]) (haddr : addrField w = addrField w') :
    decode w = decode w' := by
  simp only [List.mem_cons, List.not_mem_nil, or_false] at h
  rcases h with h | h | h | h | h
  · rw [decode_isValid h, decode_isValid (hop ▸ h), haddr]
  · rw [decode_isFamily h, decode_isFamily (hop ▸ h), haddr]
  · rw [decode_readRun h, decode_readRun (hop ▸ h), haddr]
  · rw [decode_readStep h, decode_readStep (hop ▸ h), haddr]
  · rw [decode_isConn h, decode_isConn (hop ▸ h), haddr]

theorem decode_congr_of_pins_and_address (h : opcodeField w ∈ [(0x10 : Byte), 0x11]) (hpins : pinsField w = pinsField w')
    (haddr : addrField w = addrField w') : decode w = decode w' := by
  simp only [List.mem_cons, List.not_mem_nil, or_false] at h
  rcases h with h | h
  · rw [decode_writeRun h, decode_writeRun (hop ▸ h), hpins, haddr]
  · rw [decode_writeStep h, decode_writeStep (hop ▸ h), hpins, haddr]

end congr

/-! ### Fields of fields -/

theorem pins_of_argByte : ∀ pins : BitVec 2, (pins.setWidth 8).extractLsb' 0 2 = pins := by decide

/-- The pins are put in the low two bits of the argument byte, where the decoder reads them (R52 (b)). -/
theorem pinsField_encode {i : Instr} {pins : BitVec 2} (h : i.argByte = pins.setWidth 8) : pinsField (encode i) = pins := by
  rw [pinsField_eq, argField_encode, h, pins_of_argByte]

/-- Byte `k` of the address field is byte `2 + k` of the word. -/
theorem addressByte_addrField (w : PortWord) {k : Nat} (hk : k < 8) :
    Machine.addressByte (addrField w) k = w.extractLsb' (16 + 8 * k) 8 := by
  unfold Machine.addressByte addrField
  ext j hj
  have : 8 * k + j < 64 := by omega
  simp [this, Nat.add_assoc]

theorem pinsField_getLsbD_zero (w : PortWord) : (pinsField w).getLsbD 0 = w.getLsbD 8 := by simp [pinsField]

theorem pinsField_getLsbD_one (w : PortWord) : (pinsField w).getLsbD 1 = w.getLsbD 9 := by simp [pinsField]

/-- The reserved bits of byte 0 of a response (R55). -/
theorem Machine.byte0_reserved (r : Machine.Response) : r.byte0.extractLsb' 2 2 = 0 ∧ r.byte0.getLsbD 7 = false := by
  unfold Machine.Response.byte0
  generalize r.cause.code = c
  generalize r.ok = o
  generalize r.done = d
  revert c o d
  decide

/-- Bits 3:2 of a word are those of its byte 0. -/
theorem extractLsb'_two_byte0 (w : PortWord) : w.extractLsb' 2 2 = (w.extractLsb' 0 8).extractLsb' 2 2 := by
  ext k hk
  simp

/-! ### The obligations -/

/-- Settles O1: the encoder puts each operand where the decoder reads it. -/
theorem decodeOfEncodeIsTheCommand : Obligations.DecodeOfEncodeIsTheCommand := by
  intro i hi
  have hop := opcodeField_encode i
  cases i with
  | nop => exact decode_nop hop
  | scan => exact decode_scan hop
  | getCount => exact decode_getCount hop
  | getFCount => exact decode_getFCount hop
  | getPara => exact decode_getPara hop
  | getStat => exact decode_getStat hop
  | addrIdx index =>
    have hindex : (BitVec.ofNat 8 index).toNat = index := by
      rw [BitVec.toNat_ofNat, Nat.mod_eq_of_lt (of_decide_eq_true hi)]
    rw [decode_addrIdx hop, argField_encode, Instr.argByte, hindex]
  | isValid a => rw [decode_isValid hop, addrField_encode]; rfl
  | isFamily a => rw [decode_isFamily hop, addrField_encode]; rfl
  | readRun a => rw [decode_readRun hop, addrField_encode]; rfl
  | readStep a => rw [decode_readStep hop, addrField_encode]; rfl
  | isConn a => rw [decode_isConn hop, addrField_encode]; rfl
  | writeRun pins a => rw [decode_writeRun hop, addrField_encode, pinsField_encode rfl]; rfl
  | writeStep pins a => rw [decode_writeStep hop, addrField_encode, pinsField_encode rfl]; rfl

/-- Settles O2: a decoded command has the word's opcode and is well-formed, so decoding undoes encoding it. -/
theorem decodedCommandIsWellFormedAndReencodes : Obligations.DecodedCommandIsWellFormedAndReencodes := by
  intro w i h
  obtain ⟨hop, hwf⟩ := opcode_and_wellFormed_of_decode h
  exact ⟨hwf, (opcodeField_encode i).trans hop, (decodeOfEncodeIsTheCommand i hwf).trans h.symm⟩

/-- Settles O3: the fields the decoder reads are those R52 names, and it reads no other. -/
theorem operandsAreTheWordsFields : Obligations.OperandsAreTheWordsFields := by
  refine ⟨fun w h => decode_addrIdx h, fun w h => ?_, fun w h => ?_, fun w w' hop => ?_⟩
  · refine ⟨pinsField w, addrField w, ?_, pinsField_getLsbD_zero w, pinsField_getLsbD_one w, fun k hk => addressByte_addrField w hk⟩
    rcases h with h | h
    · rw [decode_writeRun h, h]; rfl
    · rw [decode_writeStep h, h]; rfl
  · refine ⟨addrField w, ?_, fun k hk => addressByte_addrField w hk⟩
    simp only [List.mem_cons, List.not_mem_nil, or_false] at h
    rcases h with h | h | h | h | h
    · rw [decode_isValid h, h]; rfl
    · rw [decode_isFamily h, h]; rfl
    · rw [decode_readRun h, h]; rfl
    · rw [decode_readStep h, h]; rfl
    · rw [decode_isConn h, h]; rfl
  · exact ⟨decode_congr_of_no_operand hop, decode_congr_of_index hop, decode_congr_of_address hop,
      decode_congr_of_pins_and_address hop⟩

/-- Settles O6: the three fields of a response word are read back as they were put together, and byte 0 bit by bit. -/
theorem responseWordFields : Obligations.ResponseWordFields := by
  refine ⟨fun r => ?_, rfl, rfl, rfl, rfl, rfl, rfl, rfl⟩
  obtain ⟨hlow, hhigh⟩ := Machine.byte0_reserved r
  refine ⟨Machine.word_done r, Machine.word_ok r, ?_, Machine.word_cause r, ?_, Machine.word_data r, Machine.word_raddr r,
    fun k hk => ?_⟩
  · rw [extractLsb'_two_byte0, Machine.word_byte0, hlow]
  · rw [getLsbD_byte0 _ 7 (by decide), Machine.word_byte0, hhigh]
  · rw [← addressByte_addrField _ hk, addrField, Machine.word_raddr]

/-- Settles O5: the decoder run on each word. -/
theorem wordsWrittenOutDecode : Obligations.WordsWrittenOutDecode :=
  ⟨rfl, rfl, rfl, rfl, rfl, rfl, rfl⟩

/-- Settles O51: the check run on each of the 256 bytes. -/
theorem sixteenReadBytesPassTheCheck : Obligations.SixteenReadBytesPassTheCheck := by
  unfold Obligations.SixteenReadBytesPassTheCheck
  decide

end Sys2Proof
end

section
/-! The request channel: what the block asks while it waits, and that a command in progress always asks (R42, R50, R58). -/

namespace Sys2Proof.Machine

/-! ### What is outstanding -/

theorem requestPort_of_activity {s : State} {act : Activity} (ha : s.activity = some act) :
    s.requestPort = (act.request s).map Request.port := by
  simp [State.requestPort, ha]

theorem requestPort_of_idle {s : State} (ha : s.activity = none) : s.requestPort = none := by simp [State.requestPort, ha]

/-- An Engine command in a step that makes a call has the request of that call outstanding. -/
theorem requestPort_of_call {s s' : State} {c : EngineCmd} {q : Request} {k : Answer → State → StepResult}
    (ha : s.activity = some (.engine c)) (h : engineStep c s = .call q s' k) : s.requestPort = some q.port := by
  simp [requestPort_of_activity ha, Activity.request, engineRequest, h]

/-- The first three stages call the same primitives in a write as in a read (R91 to R93, R111 to R113). -/
theorem requestPort_of_shared_stage {c : EngineCmd} {s : State} (ha : s.activity = some (.engine c)) :
    (s.stage = 0 → s.requestPort = some Request.reset.port) ∧
    (s.stage = 1 → s.requestPort = some (Request.select c.addr s.cfg.selectImmediate).port) ∧
    (s.stage = 2 → s.requestPort =
      some (Request.writeByte (if c.kind = .write then s.cfg.cmdAccessWrite else s.cfg.cmdAccessRead)).port) := by
  cases hk : c.kind
  · exact ⟨fun h => requestPort_of_call ha (engineStep_write1 hk h), fun h => requestPort_of_call ha (engineStep_write2 hk h),
      fun h => requestPort_of_call ha (engineStep_write3 hk h)⟩
  · exact ⟨fun h => requestPort_of_call ha (engineStep_read1 hk h), fun h => requestPort_of_call ha (engineStep_read2 hk h),
      fun h => requestPort_of_call ha (engineStep_read3 hk h)⟩

/-- A Directory command waits nowhere but in a call. -/
theorem request_isSome_of_directory {act : Activity} (h : act.isScan = true ∨ act.isWalk = true) (s : State) :
    (act.request s).isSome = true := by
  cases act with
  | engine c => rcases h with h | h <;> cases h
  | scanReset | scanSearch | scanPower | walkReset | walkSearch => rfl

theorem request_inputs (act : Activity) (s : State) (host : List HostInput) (answers : List BusInput) :
    act.request { s with host := host, answers := answers } = act.request s := by
  cases act with
  | engine c =>
    show engineRequest c (s.aside { s with host := host, answers := answers }) = engineRequest c s
    unfold engineRequest
    rw [engineStep_aside]
    cases engineStep c s <;> rfl
  | scanReset | scanSearch | scanPower | walkReset | walkSearch => rfl

/-! ### A command in progress has a request -/

theorem waits_of_idle {s : State} (ha : s.activity = none) : s.Waits := by simp [State.cmdReady, ha]

theorem waits_iff_of_activity {s : State} {act : Activity} (ha : s.activity = some act) :
    s.Waits ↔ (act.request s).isSome = true := by
  simp [State.cmdReady, requestPort_of_activity ha, ha]

theorem waits_inputs (s : State) (host : List HostInput) (answers : List BusInput) (h : s.Waits) :
    State.Waits { s with host := host, answers := answers } := by
  obtain ha | ⟨act, ha⟩ := activity_cases s
  · exact waits_of_idle ha
  · rw [waits_iff_of_activity ha] at h
    rw [waits_iff_of_activity (s := { s with host := host, answers := answers }) ha, request_inputs, h]

theorem EngineEffect.waits {c : EngineCmd} {s t : State} (h : EngineEffect c s t) : t.Waits := by
  obtain ⟨ha, -, hreq⟩ | ⟨ha, -⟩ := h.outcome
  · exact (waits_iff_of_activity ha).mpr hreq
  · exact waits_of_idle ha

theorem ScanEffect.waits {s t : State} (h : ScanEffect s t) : t.Waits := by
  obtain ⟨act, ha, hown, -⟩ | ⟨ha, -⟩ := h.outcome
  · exact (waits_iff_of_activity ha).mpr (request_isSome_of_directory (.inl hown) t)
  · exact waits_of_idle ha

theorem WalkEffect.waits {s t : State} (h : WalkEffect s t) : t.Waits := by
  obtain ⟨act, ha, hown, -⟩ | ⟨ha, -⟩ := h.outcome
  · exact (waits_iff_of_activity ha).mpr (request_isSome_of_directory (.inr hown) t)
  · exact waits_of_idle ha

theorem onAnswer_waits (act : Activity) (a : Answer) (s : State) : (act.onAnswer a s).Waits := by
  cases act with
  | engine c => exact (engineAnswer_effect c a s).waits
  | scanReset | scanSearch | scanPower => exact (onAnswer_scan rfl a s).waits
  | walkReset | walkSearch => exact (onAnswer_walk rfl a s).waits

/-- Only a change of the inputs needs the premise: every other piece of a step ends the command or leaves it at a call. -/
theorem waits_stepClosed : StepClosed State.Waits where
  inputs := waits_inputs
  takeReset s u _ := waits_of_idle (takeReset_activity s u)
  respond s r _ := waits_of_idle (respond_activity s r)
  engineGo c s _ := (engineGo_effect c s).waits
  scanStart s _ := (scanStart_effect s).waits
  walkStart index s _ := (walkStart_effect index s).waits
  onAnswer act a s _ := onAnswer_waits act a s

/-! ### The obligations -/

/-- Settles O54: every piece a step is made of leaves the block ready or waiting in a call. -/
theorem stepKeepsARequestOutstanding : Obligations.StepKeepsARequestOutstanding :=
  fun _ _ hs h => waits_stepClosed.of_step h hs

/-- Settles O7: each step's call as the request channel carries it; the two kinds share the first three places. -/
theorem requestChannelFields : Obligations.RequestChannelFields := by
  refine ⟨fun c s ha => ?_, fun s index depth a => ⟨?_, ?_, ?_⟩, fun s ha => requestPort_of_idle ha⟩
  · obtain ⟨h0, h1, h2⟩ := requestPort_of_shared_stage ha
    exact ⟨h0, h1, h2,
      fun hk h => requestPort_of_call ha (engineStep_write4 hk h), fun hk h => requestPort_of_call ha (engineStep_write5 hk h),
      fun hk h => requestPort_of_call ha (engineStep_write6 hk h),
      fun hk h hack => requestPort_of_call ha (engineStep_write7_match hk h hack),
      fun hk h => requestPort_of_call ha (engineStep_write8 hk h),
      fun hk h => requestPort_of_call ha (engineStep_read4 hk h), fun hk h => requestPort_of_call ha (engineStep_read5 hk h)⟩
  · rintro (ha | ha) <;> exact requestPort_of_activity ha
  · rintro (ha | ha) <;> exact requestPort_of_activity ha
  · exact fun ha => requestPort_of_activity ha

end Sys2Proof.Machine
end

section
/-! Responses: how each command ends (R55 to R57, R133), and the step that accepts one (R50). -/

namespace Sys2Proof.Machine

/-! ### Where a command has come to -/

/-- A command begun in `s` has come to `t`: it waits in one of its own calls, `Own`, and has given no response, or it has ended with
one that meets `Ends`. -/
def CommandOutcome (Own : Activity → Prop) (Ends : Response → Prop) (s t : State) : Prop :=
  (∃ act, t.activity = some act ∧ Own act ∧ t.responses = s.responses) ∨
  (t.activity = none ∧ ∃ r, Ends r ∧ t.responses = s.responses ++ [r.word])

/-- A response that `i` can give: with the values of R57, and `done` 0 only from a single-step command. -/
structure Response.FitsCommand (r : Response) (i : Instr) : Prop where
  listed : r.Listed
  going : r.done = false → ∃ pins a, i = .writeStep pins a ∨ i = .readStep a

theorem fitsCommand_of_done {r : Response} (hd : r.done = true) (hc : r.cause = .noError) (i : Instr) : r.FitsCommand i :=
  ⟨⟨fun h => absurd hc h, by simp [hc], by simp [hd]⟩, by simp [hd]⟩

theorem answered_fitsCommand (ok : Bool) (data : Byte) (i : Instr) : (answered ok data).FitsCommand i :=
  fitsCommand_of_done rfl rfl i

theorem EngineEffect.commandOutcome {c : EngineCmd} {s t : State} (h : EngineEffect c s t) {i : Instr}
    (hc : c.run = false → ∃ pins a, i = .writeStep pins a ∨ i = .readStep a) :
    CommandOutcome (· = .engine c) (·.FitsCommand i) s t := by
  obtain ⟨ha, hr, -⟩ | ⟨ha, r, hr, hlisted, hgoing, -⟩ := h.outcome
  · exact .inl ⟨_, ha, rfl, hr⟩
  · exact .inr ⟨ha, r, ⟨hlisted, fun hd => hc (hgoing hd)⟩, hr⟩

theorem ScanEffect.commandOutcome {s t : State} (h : ScanEffect s t) (i : Instr) :
    CommandOutcome (·.isScan = true) (·.FitsCommand i) s t := by
  obtain hwait | ⟨ha, hr⟩ := h.outcome
  · exact .inl hwait
  · exact .inr ⟨ha, _, fitsCommand_of_done rfl rfl i, hr⟩

theorem WalkEffect.commandOutcome {s t : State} (h : WalkEffect s t) (i : Instr) :
    CommandOutcome (·.isWalk = true) (·.FitsCommand i) s t := by
  obtain hwait | ⟨ha, ok, a, hr⟩ := h.outcome
  · exact .inl hwait
  · exact .inr ⟨ha, _, fitsCommand_of_done rfl rfl i, hr⟩

/-! ### The commands that make calls, said once -/

/-- How a command with calls goes: from its start it runs over the provider's inputs, and each piece leaves it in a call of its own or
ends it with a response it can give. -/
structure Runs (i : Instr) (start : State → State) (Own : Activity → Prop) : Prop where
  exec_eq : ∀ s, exec i s = .next (runCommand (start s))
  answers : ∀ s, (start s).answers = s.answers
  begins : ∀ s, CommandOutcome Own (·.FitsCommand i) s (start s)
  goesOn : ∀ act a s, Own act → CommandOutcome Own (·.FitsCommand i) s (act.onAnswer a s)

theorem engine_runs {i : Instr} {c : EngineCmd} (he : ∀ s, exec i s = .next (runCommand (engineGo 9 c s)))
    (hc : c.run = false → ∃ pins a, i = .writeStep pins a ∨ i = .readStep a) : Runs i (engineGo 9 c) (· = .engine c) where
  exec_eq := he
  answers s := by rw [engineGo_beside_self]; rfl
  begins s := (engineGo_effect c s).commandOutcome hc
  goesOn := by rintro act a s rfl; exact (engineAnswer_effect c a s).commandOutcome hc

theorem scan_runs : Runs .scan scanStart (·.isScan = true) where
  exec_eq _ := rfl
  answers _ := rfl
  begins s := (scanStart_effect s).commandOutcome .scan
  goesOn _ a s hown := (onAnswer_scan hown a s).commandOutcome .scan

theorem addrIdx_runs (index : Nat) : Runs (.addrIdx index) (walkStart index) (·.isWalk = true) where
  exec_eq _ := rfl
  answers _ := rfl
  begins s := (walkStart_effect index s).commandOutcome (.addrIdx index)
  goesOn _ a s hown := (onAnswer_walk hown a s).commandOutcome (.addrIdx index)

/-- A command runs over the provider's inputs, or answers at once. -/
theorem runs_or_answers (i : Instr) :
    (∃ start Own, Runs i start Own) ∨ ∀ s, ∃ ok data, exec i s = .next (s.respond (answered ok data)) := by
  cases i with
  | scan => exact .inl ⟨_, _, scan_runs⟩
  | addrIdx index => exact .inl ⟨_, _, addrIdx_runs index⟩
  | writeRun pins a => exact .inl ⟨_, _, engine_runs (c := writeRunCmd pins a) (fun _ => rfl) nofun⟩
  | writeStep pins a => exact .inl ⟨_, _, engine_runs (c := writeStepCmd pins a) (fun _ => rfl) fun _ => ⟨pins, a, .inl rfl⟩⟩
  | readRun a => exact .inl ⟨_, _, engine_runs (c := readRunCmd a) (fun _ => rfl) nofun⟩
  | readStep a => exact .inl ⟨_, _, engine_runs (c := readStepCmd a) (fun _ => rfl) fun _ => ⟨0, a, .inr rfl⟩⟩
  | isConn a => exact .inl ⟨_, _, engine_runs (c := isConnCmd a) (fun _ => rfl) nofun⟩
  | nop | isValid | isFamily | getCount | getFCount | getPara | getStat => exact .inr fun _ => ⟨_, _, rfl⟩

section runs
variable {i : Instr} {start : State → State} {Own : Activity → Prop} (hruns : Runs i start Own) {s t : State}
include hruns

/-- One answer takes a command that has come to `t` on, from a call of its own. -/
theorem Runs.onAnswer {act : Activity} (ha : t.activity = some act) (ht : CommandOutcome Own (·.FitsCommand i) s t) (a : Answer) :
    CommandOutcome Own (·.FitsCommand i) s (act.onAnswer a t) := by
  obtain ⟨act', ha', hown, hr⟩ | ⟨hnone, -⟩ := ht
  · rw [ha] at ha'
    cases ha'
    have hnext := hruns.goesOn act a t hown
    unfold CommandOutcome at hnext
    rwa [hr] at hnext
  · simp [ha] at hnone

/-- With no `rst` the command waits where the answers end or has ended. -/
theorem Runs.outcome (h : onlyAnswers s.answers = true) :
    CommandOutcome Own (·.FitsCommand i) s (runCommand (start s)) ∧
      ((runCommand (start s)).activity.isSome = true → (runCommand (start s)).answers = []) := by
  obtain ⟨u, hu, heq, hwait⟩ := drive_effect (fun t act a ht ha => hruns.onAnswer ha ht a) (start s).answers (start s)
    (by rwa [hruns.answers]) (hruns.begins s)
  change runCommand (start s) = _ at heq
  rw [heq]
  exact ⟨hu, hwait⟩

/-- With or without `rst` the command gives no response or one it can give. -/
theorem Runs.responses : (runCommand (start s)).responses = s.responses ∨
    ∃ r : Response, r.FitsCommand i ∧ (runCommand (start s)).responses = s.responses ++ [r.word] := by
  have hrun : CommandOutcome Own (·.FitsCommand i) s (runCommand (start s)) ∨
      (runCommand (start s)).activity = none ∧ (runCommand (start s)).responses = s.responses := by
    refine drive_induction
      (P := fun t => CommandOutcome Own (·.FitsCommand i) s t ∨ t.activity = none ∧ t.responses = s.responses)
      (ok := fun _ => True) (fun _ _ h => h) (fun act x t ha _ ht => ?_) _ _ (fun _ _ => trivial) (.inl (hruns.begins s))
    obtain ht | ⟨hnone, -⟩ := ht
    · cases x with
      | answer a => exact .inl (hruns.onAnswer ha ht a)
      | rst u =>
        obtain ⟨-, -, -, hr⟩ | ⟨hnone, -⟩ := ht
        · exact .inr ⟨rfl, hr⟩
        · simp [ha] at hnone
    · simp [ha] at hnone
  obtain (⟨-, -, -, hr⟩ | ⟨-, hr⟩) | ⟨-, hr⟩ := hrun
  · exact .inl hr
  · exact .inr hr
  · exact .inl hr

end runs

/-- A command gives no response or one it can give. -/
theorem exec_responses {i : Instr} {s t : State} (h : exec i s = .next t) : t.responses = s.responses ∨
    ∃ r : Response, r.FitsCommand i ∧ t.responses = s.responses ++ [r.word] := by
  obtain ⟨start, Own, hruns⟩ | hanswers := runs_or_answers i
  · rw [hruns.exec_eq] at h
    cases h
    exact hruns.responses
  · obtain ⟨ok, data, he⟩ := hanswers s
    rw [he] at h
    cases h
    exact .inr ⟨_, answered_fitsCommand ok data i, rfl⟩

theorem step_of_command {s : State} {w : PortWord} {rest : List HostInput} {i : Instr} (ha : s.activity = none)
    (hh : s.host = .command w :: rest) (hd : decode w = .ok i) : step s = exec i { s with host := rest } := by
  simp only [step, fetch, ha, hh, hd]

/-! ### The obligations -/

/-- Settles O56: a command that makes calls runs to its response or to where the answers end; the others answer at once. -/
theorem everyCommandEndsWithOneResponse : Obligations.EveryCommandEndsWithOneResponse := by
  intro i s hans
  obtain ⟨start, Own, hruns⟩ | hanswers := runs_or_answers i
  · obtain ⟨⟨act, ha, -, hr⟩ | ⟨ha, r, -, hr⟩, hwait⟩ := hruns.outcome hans
    · exact ⟨_, hruns.exec_eq s, .inr ⟨by simp [State.cmdReady, ha], hr, hwait (by simp [ha])⟩⟩
    · exact ⟨_, hruns.exec_eq s, .inl ⟨by simp [State.cmdReady, ha], _, hr⟩⟩
  · obtain ⟨ok, data, he⟩ := hanswers s
    exact ⟨_, he, .inl ⟨rfl, _, rfl⟩⟩

/-- Settles O57: the response is one the command can give, whatever inputs came, and its word shows its fields. -/
theorem responsesAreOfTheListedKinds : Obligations.ResponsesAreOfTheListedKinds := by
  intro i s t w h hw
  obtain hr | ⟨r, ⟨hlisted, hgoing⟩, hr⟩ := exec_responses h
  · simp [hr] at hw
  · obtain rfl : r.word = w := by simpa [hr] using hw
    rw [word_byte0, word_cause, word_done, word_ok]
    exact ⟨hlisted.byte0_mem, fun hcause => hlisted.fails fun hnone => hcause (by rw [hnone]; rfl), hgoing⟩

/-- Settles O8: `fetch` takes the word and decodes it. -/
theorem stepRunsTheDecodedCommand : Obligations.StepRunsTheDecodedCommand :=
  fun _ _ _ _ => step_of_command

end Sys2Proof.Machine
end

section
/-! The Device Directory: the commands that answer at once (R73, R74, R76 to R78) and the two walks over an enumeration of any length
(R72, R75, R79). -/

namespace Sys2Proof.Machine

/-! ### The state of a walk at a call -/

section waiting
variable (s : State) (act act' : Activity) (e : Event)

@[simp] theorem waitFor_waitFor : (s.waitFor act').waitFor act = s.waitFor act := rfl

@[simp] theorem log_waitFor : (s.waitFor act).log e = (s.log e).waitFor act := rfl

@[simp] theorem respond_waitFor (r : Response) : (s.waitFor act).respond r = s.respond r := rfl

@[simp] theorem countHit_waitFor (a : Address) : countHit a (s.waitFor act) = (countHit a s).waitFor act := by
  cases hv : validAddress s.cfg a
  · rw [countHit_invalid _ _ hv, countHit_invalid _ _ (by exact hv)]
  · rw [countHit_valid _ _ hv, countHit_valid _ _ (by exact hv)]; rfl

/-- A response in answer to a call ends the run. -/
theorem drive_log_respond (r : Response) (xs : List BusInput) :
    drive xs ((s.log e).respond r) = (s.called xs e).responded r.word := drive_idle rfl xs

end waiting

/-! ### SCAN, one answer at a time -/

section scan
variable (s : State) (xs : List BusInput)

/-- SCAN from its start to its first `search`. -/
theorem exec_scan_reset (r : Answer) : exec .scan { s with answers := .answer r :: xs } =
    .next (drive xs (((scanStart s).log .resetSearch).waitFor .scanSearch)) :=
  congrArg Host.Outcome.next (drive_answers xs (.answer r :: xs) (((scanStart s).log .resetSearch).waitFor .scanSearch))

theorem drive_scanSearch_hit (a : Address) : drive (hitAnswer a :: xs) (s.waitFor .scanSearch) =
    drive xs ((countHit a (s.log (.search (some a)))).waitFor
      (if validAddress s.cfg a && !s.parasiticPowerFlag then .scanPower a else .scanSearch)) := by
  simp [hitAnswer, Activity.onAnswer, scanAfterSearch, Request.event]

theorem drive_scanSearch_end {e : Answer} (he : e.flag = false) : drive (.answer e :: xs) (s.waitFor .scanSearch) =
    (s.called xs (.search none)).responded (reply true true .noError 0) := by
  simp [-drive_respond, Activity.onAnswer, scanAfterSearch, Request.event, he, drive_log_respond, answered, reply]

theorem drive_scanPower (a : Address) (p : Bool) : drive (flagAnswer p :: xs) (s.waitFor (.scanPower a)) =
    drive xs (State.waitFor .scanSearch
      { s.log (.powerMode a p) with parasiticPowerFlag := s.parasiticPowerFlag || p }) := by
  cases p
  · rw [Bool.or_false]; rfl
  · rw [Bool.or_true]; rfl

end scan

/-! ### The counters over a whole enumeration (R79) -/

/-- A counter after `n` more hits, saturated at 255. -/
def satAdd (c : Byte) (n : Nat) : Byte := BitVec.ofNat 8 (min 255 (c.toNat + n))

@[simp] theorem satAdd_zero (c : Byte) : satAdd c 0 = c := by
  unfold satAdd
  bv_omega

/-- Counting one hit and then the others is counting them all: a counter that is full stays full. -/
theorem satAdd_satInc (c : Byte) (n : Nat) : satAdd (satInc c) n = satAdd c (n + 1) := by
  have hc := satInc_toNat c
  unfold satAdd
  congr 1
  omega

/-! ### SCAN of a whole enumeration -/

/-- `s` after SCAN has come through `hits` to the end of the enumeration, but for the response. -/
def State.scanned (s : State) (hits : List (Address × Bool)) : State :=
  { s with
    deviceCount := satAdd s.deviceCount (hits.countP fun h => validAddress s.cfg h.1)
    familyDeviceCount := satAdd s.familyDeviceCount (hits.countP fun h => validAddress s.cfg h.1 && inFamily s.cfg h.1)
    parasiticPowerFlag := s.parasiticPowerFlag || hits.any fun h => validAddress s.cfg h.1 && h.2
    trace := s.trace ++ scanEvents s.cfg s.parasiticPowerFlag hits }

/-- `s` after SCAN has done with one hit: a valid one is counted, and its device is asked while the flag is 0. -/
def State.afterHit (s : State) (h : Address × Bool) : State :=
  if validAddress s.cfg h.1 && !s.parasiticPowerFlag then
    { countHit h.1 s with parasiticPowerFlag := h.2, trace := s.trace ++ [.search (some h.1), .powerMode h.1 h.2] }
  else countHit h.1 (s.log (.search (some h.1)))

section scanHits
variable (s : State) (h : Address × Bool) (hits : List (Address × Bool)) (xs : List BusInput)

@[simp] theorem afterHit_cfg : (s.afterHit h).cfg = s.cfg := by
  unfold State.afterHit
  split <;> simp

/-- Scanning an enumeration is doing with its first hit and scanning the others from there. -/
theorem scanned_cons : s.scanned (h :: hits) = (s.afterHit h).scanned hits := by
  obtain ⟨a, p⟩ := h
  cases hv : validAddress s.cfg a
  · simp [State.afterHit, State.scanned, scanEvents, hv, countHit, State.log]
  · cases hf : s.parasiticPowerFlag <;> cases hfam : inFamily s.cfg a <;>
      simp [State.afterHit, State.scanned, scanEvents, hv, hf, hfam, countHit, State.log, satAdd_satInc]

/-- SCAN takes the answers of one hit and waits at the next `search`. -/
theorem drive_scanAnswers_cons :
    drive (scanAnswers s.cfg s.parasiticPowerFlag (h :: hits) ++ xs) (s.waitFor .scanSearch) =
      drive (scanAnswers s.cfg (s.afterHit h).parasiticPowerFlag hits ++ xs) ((s.afterHit h).waitFor .scanSearch) := by
  obtain ⟨a, p⟩ := h
  by_cases hask : (validAddress s.cfg a && !s.parasiticPowerFlag) = true
  · rw [scanAnswers, if_pos hask, List.cons_append, List.cons_append, drive_scanSearch_hit, if_pos hask, drive_scanPower,
      State.afterHit, if_pos hask]
    obtain ⟨hv, hf⟩ : validAddress s.cfg a = true ∧ s.parasiticPowerFlag = false := by simpa using hask
    simp [countHit, hv, hf, State.log]
  · rw [scanAnswers, if_neg hask, List.cons_append, drive_scanSearch_hit, if_neg hask, State.afterHit, if_neg hask]
    simp

/-- SCAN over a whole enumeration, from any state of the counters. -/
theorem drive_scan {e : Answer} (he : e.flag = false) :
    drive (scanAnswers s.cfg s.parasiticPowerFlag hits ++ .answer e :: xs) (s.waitFor .scanSearch) =
      State.responded { s.scanned hits with answers := xs } (reply true true .noError 0) := by
  induction hits generalizing s with
  | nil =>
    rw [scanAnswers, List.nil_append, drive_scanSearch_end s xs he]
    simp [State.scanned, State.called, State.responded, scanEvents]
  | cons h hits ih => rw [drive_scanAnswers_cons, scanned_cons, ← afterHit_cfg s h, ih]

end scanHits

/-! ### ADDRIDX -/

section walk
variable (s : State) (index depth : Nat) (xs : List BusInput)

/-- A hit at a lower position is passed over, valid or not. -/
theorem drive_walkSearch_hit_before (a : Address) (h : depth < index) :
    drive (hitAnswer a :: xs) (s.waitFor (.walkSearch index depth)) =
      drive xs ((s.log (.search (some a))).waitFor (.walkSearch index (depth + 1))) := by
  simp [hitAnswer, Activity.onAnswer, walkAfterSearch, walkNext, Request.event, h.ne, Nat.succ_le_of_lt h]

theorem drive_walkSearch_end {e : Answer} (he : e.flag = false) :
    drive (.answer e :: xs) (s.waitFor (.walkSearch index depth)) =
      (s.called xs (.search none)).responded (reply true false .noError 0) := by
  simp [-drive_respond, Activity.onAnswer, walkAfterSearch, Request.event, he, drive_log_respond, answered, reply]

/-- The hit at position `index` ends the walk. -/
theorem drive_walkSearch_hit_at (a : Address) :
    drive (hitAnswer a :: xs) (s.waitFor (.walkSearch index index)) =
      (s.called xs (.search (some a))).responded
        (if validAddress s.cfg a then
          Response.word { done := true, ok := true, cause := .noError, data := 0, raddr := a }
        else reply true false .noError 0) := by
  cases hv : validAddress s.cfg a <;>
    simp [-drive_respond, hitAnswer, Activity.onAnswer, walkAfterSearch, walkNext, Request.event, hv, drive_log_respond,
      answered, reply]

/-- As many hits as there are positions below `index` are passed over. -/
theorem drive_walk_hits (hits : List Address) (h : depth + hits.length ≤ index) :
    drive (hits.map hitAnswer ++ xs) (s.waitFor (.walkSearch index depth)) =
      drive xs (State.waitFor (.walkSearch index (depth + hits.length))
        { s with trace := s.trace ++ hits.map fun x => Event.search (some x) }) := by
  induction hits generalizing s depth with
  | nil => simp
  | cons a hits ih =>
    rw [List.length_cons] at h ⊢
    rw [List.map_cons, List.cons_append, drive_walkSearch_hit_before _ _ _ _ _ (by omega), ih _ _ (by omega)]
    simp [State.log, Nat.add_right_comm, ← Nat.add_assoc]

/-- ADDRIDX from its start to its first `search`. -/
theorem exec_addrIdx_reset (r : Answer) : exec (.addrIdx index) { s with answers := .answer r :: xs } =
    .next (drive xs ((s.log .resetSearch).waitFor (.walkSearch index 0))) := by
  have hnext : walkNext index 0 (s.log .resetSearch) = (s.log .resetSearch).waitFor (.walkSearch index 0) := by simp [walkNext]
  rw [← hnext]
  exact congrArg Host.Outcome.next (drive_answers xs (.answer r :: xs) (walkNext index 0 (s.log .resetSearch)))

/-- ADDRIDX over the hits below position `index`, from its start. -/
theorem exec_addrIdx_hits (r : Answer) (hits : List Address) (h : hits.length ≤ index) :
    exec (.addrIdx index) { s with answers := .answer r :: hits.map hitAnswer ++ xs } =
      .next (drive xs (State.waitFor (.walkSearch index hits.length)
        { s with trace := s.trace ++ .resetSearch :: hits.map fun x => .search (some x) })) := by
  have hhits := drive_walk_hits (s.log .resetSearch) index 0 xs hits (by omega)
  rw [List.cons_append, exec_addrIdx_reset, hhits]
  simp [State.log]

end walk

/-! ### The obligations -/

/-- Settles O22: by induction on the enumeration, from any state of the counters, the flag and the trace. -/
theorem scanCountsTheValidHits : Obligations.ScanCountsTheValidHits := by
  intro s hits r e rest he
  have hrun := drive_scan ((scanStart s).log .resetSearch) hits rest he
  rw [List.cons_append, exec_scan_reset]
  refine (congrArg Host.Outcome.next hrun).trans ?_
  simp [State.scanned, State.responded, scanStart, satAdd, inFamily, addressByte]

/-- Settles O23: the walk passes over the hits before position `index` and ends at the next. -/
theorem addressAtIndexIsTheHitAtThatPosition : Obligations.AddressAtIndexIsTheHitAtThatPosition := by
  intro s before a r rest
  rw [exec_addrIdx_hits _ _ _ _ _ le_rfl, drive_walkSearch_hit_at]
  simp [State.called, State.responded]

/-- Settles O24: the walk passes over every hit and ends at the `search` that finds nothing. -/
theorem addressAtIndexPastTheEndIsNotFound : Obligations.AddressAtIndexPastTheEndIsNotFound := by
  intro s index hits r e rest hlen he
  rw [exec_addrIdx_hits _ _ _ _ _ hlen, drive_walkSearch_end _ _ _ _ he]
  simp [State.called, State.responded]

/-- Settles O16: the test is the checksum test of R70; the clauses on one address are the vectors of R73. -/
theorem isValidComparesTheChecksum : Obligations.IsValidComparesTheChecksum :=
  ⟨fun _ _ => rfl, congrArg Host.Outcome.next (by decide), congrArg Host.Outcome.next (by decide),
    congrArg Host.Outcome.next (by decide), by decide⟩

/-- Settles O17: byte 0 of the address is the one thing read. -/
theorem isFamilyComparesByteZero : Obligations.IsFamilyComparesByteZero :=
  ⟨fun _ _ => rfl, congrArg Host.Outcome.next (by decide), congrArg Host.Outcome.next (by decide), by decide⟩

/-- Settles O18: the response carries the counter, and a reset clears it. -/
theorem getCountAnswersDeviceCount : Obligations.GetCountAnswersDeviceCount := by
  have hword : reply true true .noError 0 = wordOfBytes [0x03, 0x00] := by decide
  exact ⟨fun _ => rfl, fun _ _ => by rw [← hword]; rfl, decode_getCount (by decide)⟩

/-- Settles O19: the response carries the counter. -/
theorem getFCountAnswersFamilyDeviceCount : Obligations.GetFCountAnswersFamilyDeviceCount :=
  ⟨fun _ => rfl, decode_getFCount (by decide)⟩

/-- Settles O20: the flag as a byte is 1 or 0. -/
theorem getParaAnswersTheFlagInData : Obligations.GetParaAnswersTheFlagInData := by
  refine ⟨fun s => ?_, decode_getPara (by decide)⟩
  have hbyte : (BitVec.ofBool s.parasiticPowerFlag).setWidth 8 = if s.parasiticPowerFlag then (0x01 : Byte) else 0x00 := by
    cases s.parasiticPowerFlag <;> rfl
  rw [← hbyte]
  rfl

end Sys2Proof.Machine
end

section
/-! The Directory and the Engine share no register (R81): other values in the registers of the one are carried along by the commands of
the other. -/

namespace Sys2Proof.Machine

/-! ### A change a command carries along -/

/-- `f` changes only what a command in one of the calls `Own` neither reads nor writes: it commutes with every answer. -/
structure CarriedAlong (Own : Activity → Prop) (f : State → State) : Prop where
  activity : ∀ s, (f s).activity = s.activity
  answers : ∀ s xs, f { s with answers := xs } = { f s with answers := xs }
  onAnswer : ∀ act a s, Own act → act.onAnswer a (f s) = f (act.onAnswer a s)

section carried
variable {i : Instr} {start f : State → State} {Own : Activity → Prop} (hruns : Runs i start Own) (hf : CarriedAlong Own f)
  {s t : State}
include hruns hf

/-- Over answers alone a command carries such a change along. -/
theorem Runs.drive_carriedAlong (xs : List BusInput) (hans : onlyAnswers xs = true)
    (ht : CommandOutcome Own (·.FitsCommand i) s t) : drive xs (f t) = f (drive xs t) := by
  induction xs generalizing t with
  | nil => exact (hf.answers t []).symm
  | cons x xs ih =>
    obtain ha | ⟨act, ha⟩ := activity_cases t
    · rw [drive_idle ha, drive_idle ((hf.activity t).trans ha)]
      exact (hf.answers t (x :: xs)).symm
    · rw [drive_cons ha, drive_cons ((hf.activity t).trans ha)]
      cases x with
      | rst u => simp [onlyAnswers] at hans
      | answer a =>
        have hnext := hruns.onAnswer ha ht a
        obtain ⟨act', ha', hown, -⟩ | ⟨hnone, -⟩ := ht
        · obtain rfl : act' = act := Option.some.inj (ha'.symm.trans ha)
          simp only [onBusInput, hf.onAnswer act' a t hown]
          exact ih (by simpa [onlyAnswers] using hans) hnext
        · simp [ha] at hnone

theorem Runs.exec_carriedAlong (hstart : start (f s) = f (start s)) (hans : onlyAnswers s.answers = true)
    (h : exec i s = .next t) : exec i (f s) = .next (f t) := by
  rw [hruns.exec_eq] at h ⊢
  cases h
  have hanswers : (f (start s)).answers = (start s).answers := 
    (congrArg State.answers (hf.answers (start s) (start s).answers) :)
  unfold runCommand
  rw [hstart, hanswers]
  exact congrArg _ (hruns.drive_carriedAlong hf _ (by rwa [hruns.answers]) (hruns.begins s))

end carried

/-! ### The Engine's commands and the Directory's registers -/

theorem runs_of_isEngine {i : Instr} (h : i.isEngine = true) : ∃ c, Runs i (engineGo 9 c) (· = .engine c) := by
  cases i with
  | writeRun pins a => exact ⟨writeRunCmd pins a, engine_runs (fun _ => rfl) nofun⟩
  | writeStep pins a => exact ⟨writeStepCmd pins a, engine_runs (fun _ => rfl) fun _ => ⟨pins, a, .inl rfl⟩⟩
  | readRun a => exact ⟨readRunCmd a, engine_runs (fun _ => rfl) nofun⟩
  | readStep a => exact ⟨readStepCmd a, engine_runs (fun _ => rfl) fun _ => ⟨0, a, .inr rfl⟩⟩
  | isConn a => exact ⟨isConnCmd a, engine_runs (fun _ => rfl) nofun⟩
  | nop | scan | addrIdx | isValid | isFamily | getCount | getFCount | getPara | getStat => cases h

section withDirectoryOf
variable (s d : State)

theorem withDirectoryOf_eq_beside : s.withDirectoryOf d = s.beside (s.withDirectoryOf d) := rfl

/-- The start of an Engine command leaves what is beside it. -/
theorem engineGo_withDirectoryOf (c : EngineCmd) : engineGo 9 c (s.withDirectoryOf d) = (engineGo 9 c s).withDirectoryOf d := by
  have hbeside : engineGo 9 c (s.beside (s.withDirectoryOf d)) = (engineGo 9 c s).beside (s.withDirectoryOf d) := by
    simp only [engineGo_eq 7, engineBegin_beside]
  rw [withDirectoryOf_eq_beside, hbeside, engineGo_beside_self]
  rfl

theorem engineAnswer_withDirectoryOf (c : EngineCmd) (a : Answer) :
    engineAnswer c a (s.withDirectoryOf d) = (engineAnswer c a s).withDirectoryOf d := by
  rw [withDirectoryOf_eq_beside, engineAnswer_beside]
  conv_rhs => rw [← beside_self s, engineAnswer_beside]
  rfl

end withDirectoryOf

theorem withDirectoryOf_carriedAlong (c : EngineCmd) (d : State) : CarriedAlong (· = .engine c) (·.withDirectoryOf d) where
  activity _ := rfl
  answers _ _ := rfl
  onAnswer := by rintro act a s rfl; exact engineAnswer_withDirectoryOf s d c a

/-! ### The Directory's commands and the Engine's registers -/

section withEngineOf
variable (s e : State) (a : Answer)

@[simp] theorem withEngineOf_cfg : (s.withEngineOf e).cfg = s.cfg := rfl

theorem countHit_withEngineOf (addr : Address) : countHit addr (s.withEngineOf e) = (countHit addr s).withEngineOf e := by
  cases hv : validAddress s.cfg addr
  · rw [countHit_invalid _ _ hv, countHit_invalid _ _ (by exact hv)]
  · rw [countHit_valid _ _ hv, countHit_valid _ _ (by exact hv)]; rfl

theorem walkNext_withEngineOf (index depth : Nat) :
    walkNext index depth (s.withEngineOf e) = (walkNext index depth s).withEngineOf e := by
  unfold walkNext
  split <;> rfl

theorem scanAfterSearch_withEngineOf : scanAfterSearch a (s.withEngineOf e) = (scanAfterSearch a s).withEngineOf e := by
  have hlog : (s.withEngineOf e).log (Request.search.event a) = (s.log (Request.search.event a)).withEngineOf e := rfl
  unfold scanAfterSearch
  rw [hlog]
  dsimp only
  rw [countHit_withEngineOf]
  split <;> rfl

theorem scanAfterPower_withEngineOf (addr : Address) :
    scanAfterPower addr a (s.withEngineOf e) = (scanAfterPower addr a s).withEngineOf e := by
  unfold scanAfterPower
  cases a.flag <;> rfl

theorem walkAfterSearch_withEngineOf (index depth : Nat) :
    walkAfterSearch index depth a (s.withEngineOf e) = (walkAfterSearch index depth a s).withEngineOf e := by
  have hlog : (s.withEngineOf e).log (Request.search.event a) = (s.log (Request.search.event a)).withEngineOf e := rfl
  unfold walkAfterSearch
  rw [hlog]
  dsimp only
  rw [walkNext_withEngineOf, withEngineOf_cfg]
  split
  · split <;> rfl
  · rfl

theorem onAnswer_withEngineOf {act : Activity} (h : ∀ c, act ≠ .engine c) :
    act.onAnswer a (s.withEngineOf e) = (act.onAnswer a s).withEngineOf e := by
  cases act with
  | engine c => exact absurd rfl (h c)
  | scanReset => rfl
  | scanSearch => exact scanAfterSearch_withEngineOf s e a
  | scanPower addr => exact scanAfterPower_withEngineOf s e a addr
  | walkReset index => exact walkNext_withEngineOf (s.log .resetSearch) e index 0
  | walkSearch index depth => exact walkAfterSearch_withEngineOf s e a index depth

end withEngineOf

theorem withEngineOf_carriedAlong {Own : Activity → Prop} (h : ∀ c, ¬ Own (.engine c)) (e : State) :
    CarriedAlong Own (·.withEngineOf e) where
  activity _ := rfl
  answers _ _ := rfl
  onAnswer _ a s hown := onAnswer_withEngineOf s e a fun c hc => h c (hc ▸ hown)

/-! ### The obligation -/

/-- Settles O59: a command that makes calls carries the other unit's registers along answer by answer; the commands that answer at once
read none of the Engine's but for GETSTAT. -/
theorem directoryAndEngineShareNoRegister : Obligations.DirectoryAndEngineShareNoRegister := by
  intro i s d t hans h
  constructor
  · intro hengine
    obtain ⟨c, hruns⟩ := runs_of_isEngine hengine
    exact hruns.exec_carriedAlong (withDirectoryOf_carriedAlong c d) (engineGo_withDirectoryOf s d c) hans h
  · intro hdirectory hstat
    cases i with
    | scan => exact scan_runs.exec_carriedAlong (withEngineOf_carriedAlong nofun d) rfl hans h
    | addrIdx index => exact (addrIdx_runs index).exec_carriedAlong (withEngineOf_carriedAlong nofun d) rfl hans h
    | nop | isValid | isFamily | getCount | getFCount | getPara => cases h; rfl
    | getStat => exact absurd rfl hstat
    | writeRun | writeStep | readRun | readStep | isConn => cases hdirectory

end Sys2Proof.Machine
end

section
/-! The steps of an Engine command from their start to their return (R90), sequences of them in the two execution modes (R100, R101),
and the write sequence (R91 to R99). -/

namespace Sys2Proof.Machine

/-! ### A step and its return -/

/-- The step of `c` begun in `s` returns `r`: it makes no call, or its call is answered. -/
inductive StepReturns (c : EngineCmd) (s : State) : StepResult → Prop
  | ret {r : StepResult} (h : engineStep c s = .ret r) : StepReturns c s r
  | call {q : Request} {s' : State} {k : Answer → State → StepResult} {a : Answer} {rest : List BusInput}
      (h : engineStep c s = .call q s' k) (ha : s.answers = .answer a :: rest) :
      StepReturns c s (k a (s'.called rest (q.event a)))

/-- The `stage` at which the last step of a sequence begins (R60). -/
def Kind.lastStage (k : Kind) : Nat :=
  match k with
  | .write => 8
  | .read => 6

/-- The `stage` from which on the steps of a sequence make no call. -/
def Kind.callStages (k : Kind) : Nat :=
  match k with
  | .write => 8
  | .read => 5

theorem engineStep_call_lt {c : EngineCmd} {s s' : State} {q : Request} {k : Answer → State → StepResult}
    (h : engineStep c s = .call q s' k) : s.stage.toNat < c.kind.callStages := by
  obtain ⟨-, -, -, -, hlt, -⟩ := engineStep_call_going h
  cases hk : c.kind with
  | write => exact hlt
  | read =>
    by_contra hge
    have hlate : s.stage = 5#4 ∨ s.stage = 6#4 ∨ 6#4 < s.stage := by
      simp only [Kind.callStages] at hge
      bv_omega
    rcases hlate with hs | hs | hs
    · cases hn : nibbleCheck s.pend0
      · rw [engineStep_read6_fail hk hs hn] at h; cases h
      · rw [engineStep_read6_pass hk hs hn] at h; cases h
    · rw [engineStep_read7 hk hs] at h; cases h
    · rw [engineStep_read_range hk hs] at h; cases h

section returns
variable {c : EngineCmd} {s : State}

/-- The flag of the answer lets the sequence go on. -/
theorem StepReturns.pass {q : Request} {s' : State} {n : BitVec 4} {x : Cause} {a : Answer} {rest : List BusInput}
    (h : engineStep c s = .call q s' (Going.flagged n x).on) (ha : s.answers = .answer a :: rest) (hf : a.flag = true) :
    StepReturns c s (goOn n (s'.called rest (q.event a))) := by
  have hret := StepReturns.call h ha
  rwa [Going.on, if_pos hf] at hret

/-- The flag of the answer aborts the sequence. -/
theorem StepReturns.abort {q : Request} {s' : State} {n : BitVec 4} {x : Cause} {a : Answer} {rest : List BusInput}
    (h : engineStep c s = .call q s' (Going.flagged n x).on) (ha : s.answers = .answer a :: rest) (hf : a.flag = false) :
    StepReturns c s (raise x (s'.called rest (q.event a))) := by
  have hret := StepReturns.call h ha
  rwa [Going.on, if_neg (by simp [hf])] at hret

/-- Commands whose step is the same get the same return. -/
theorem StepReturns.congr {c' : EngineCmd} {r : StepResult} (h : StepReturns c s r) (he : engineStep c s = engineStep c' s) :
    StepReturns c' s r := by
  cases h with
  | ret h => exact .ret (he ▸ h)
  | call h ha => exact .call (he ▸ h) ha

/-- The single-step command makes the step that the run-to-completion command makes. -/
theorem StepReturns.single {r : StepResult} (h : StepReturns c s r) : StepReturns { c with run := false } s r :=
  h.congr (engineStep_operands rfl rfl (fun _ => rfl) fun _ => rfl)

/-- A step gives no response, the command does; and it returns the values R90 lets it return. -/
theorem StepReturns.effect {r : StepResult} (h : StepReturns c s r) : r.state.responses = s.responses ∧ r.Fair := by
  cases h with
  | ret h =>
    obtain ⟨-, hr, hf⟩ := engineStep_ret_effect h
    exact ⟨hr, hf⟩
  | call h ha =>
    obtain ⟨-, hr⟩ := engineStep_call_effect h
    obtain ⟨g, w, rfl, -, -, -, -, hx, hg⟩ := engineStep_call_going h
    obtain ⟨-, hr', hf⟩ := Going.on_effect hx hg _ _
    exact ⟨hr'.trans hr, hf⟩

/-- A step that is not the last reports no error and no success. -/
theorem StepReturns.going {r : StepResult} (h : StepReturns c s r) (hd : r.done = false) : r.ok = false ∧ r.cause = .noError := by
  obtain ⟨-, hfails, -, hgoing, -⟩ := h.effect
  refine ⟨hgoing hd, by_contra fun hc => ?_⟩
  obtain ⟨hdone, -⟩ := hfails hc
  simp [hd] at hdone

/-- A step that is not the last leads to the next stage. -/
theorem StepReturns.progress {r : StepResult} (h : StepReturns c s r) (hd : r.done = false) :
    r.state.stage.toNat = s.stage.toNat + 1 ∧ s.stage.toNat < c.kind.lastStage := by
  cases h with
  | ret h =>
    have shape := engineStep_shape c s
    rw [h] at shape
    cases shape with
    | aborts => cases hd
    | ends => cases hd
    | decodes pins hk h5 => simp [h5, hk, Kind.lastStage]
  | @call q s' k a rest h ha =>
    have hlt := engineStep_call_lt h
    obtain ⟨g, w, rfl, -, hlt8, htarget, -⟩ := engineStep_call_going h
    rcases Going.on_cases g a (s'.called rest (q.event a)) with ⟨b, b', hgo⟩ | ⟨n, x, -, hgo⟩
    · have hstage : (g.on a (s'.called rest (q.event a))).state.stage = s.stage + 1 := by rw [hgo]; exact htarget
      have hle : c.kind.callStages ≤ c.kind.lastStage := by cases c.kind <;> decide
      exact ⟨by rw [hstage]; bv_omega, by omega⟩
    · rw [hgo] at hd; cases hd

/-- Where a command goes from the return of its step (R100, R101). -/
theorem StepReturns.run {r : StepResult} (h : StepReturns c s r) : runCommand (engineGo 9 c s) =
    if c.run && !r.done then runCommand (engineGo 9 c r.state) else engineRespond c r := by
  cases h with
  | call h ha => exact run_call h ha
  | ret h =>
    split
    · next hgo =>
      obtain ⟨hr, hd⟩ : c.run = true ∧ r.done = false := by simpa using hgo
      exact run_ret_run h hr hd
    · next hend =>
      refine run_ret h ?_
      cases hr : c.run
      · exact .inl rfl
      · exact .inr (by simpa [hr] using hend)

/-- The step is the last. -/
theorem StepReturns.run_done {r : StepResult} (h : StepReturns c s r) (hd : r.done = true) :
    runCommand (engineGo 9 c s) = engineRespond c r := by
  rw [h.run, if_neg (by simp [hd])]

/-- A single-step command ends with its step. -/
theorem StepReturns.run_single {r : StepResult} (h : StepReturns c s r) (hr : c.run = false) :
    runCommand (engineGo 9 c s) = engineRespond c r := by
  rw [h.run, if_neg (by simp [hr])]

/-- A run-to-completion command goes on after a step that is not the last. -/
theorem StepReturns.run_next {r : StepResult} (h : StepReturns c s r) (hr : c.run = true) (hd : r.done = false) :
    runCommand (engineGo 9 c s) = runCommand (engineGo 9 c r.state) := by
  rw [h.run, if_pos (by simp [hr, hd])]

section call
variable {q : Request} {s' : State} {k : Answer → State → StepResult} (h : engineStep c s = .call q s' k)
include h

theorem engineGo_of_call : engineGo 9 c s = s'.waitFor (.engine c) := by rw [engineGo_eq 7, engineBegin, h]

/-- A call goes out before any answer is taken. -/
theorem answers_of_call : s'.answers = s.answers := by
  obtain ⟨-, -, -, rfl, -⟩ := engineStep_call_going h
  simp

/-- `rst` at the call of a step drops the command, whichever it is. -/
theorem run_rst {u : PowerUp} {rest : List BusInput} (ha : s.answers = .rst u :: rest) :
    runCommand (engineGo 9 c s) = { s'.takeReset u with answers := rest } := by
  rw [engineGo_of_call h, runCommand_of_rst (waitFor_activity ..) ((answers_of_call h).trans ha)]
  rfl

/-- A command whose call is not answered waits. -/
theorem run_waits (ha : s.answers = []) : (runCommand (engineGo 9 c s)).cmdReady = false := by
  rw [engineGo_of_call h, runCommand, waitFor_answers, answers_of_call h, ha]
  rfl

end call

end returns

/-! ### The operands a command carries (R102) -/

/-- `c` with other operands. -/
def EngineCmd.withOperands (c : EngineCmd) (a : Address) (pins : BitVec 2) : EngineCmd := { c with addr := a, pins := pins }

section operands
variable {c : EngineCmd} {s : State} {a : Address} {pins : BitVec 2}

/-- A step that does not read the operands that differ does the same, and so does the command, if what comes after that step does the
same. It must not wait in the step's call: while it waits it holds its own operands. -/
theorem run_withOperands (he : engineStep c s = engineStep (c.withOperands a pins) s)
    (hend : s.answers ≠ [] ∨ (runCommand (engineGo 9 c s)).cmdReady = true)
    (hnext : ∀ r, StepReturns c s r → c.run = true → r.done = false →
      runCommand (engineGo 9 c r.state) = runCommand (engineGo 9 (c.withOperands a pins) r.state)) :
    runCommand (engineGo 9 c s) = runCommand (engineGo 9 (c.withOperands a pins) s) := by
  have returned : ∀ r, StepReturns c s r →
      runCommand (engineGo 9 c s) = runCommand (engineGo 9 (c.withOperands a pins) s) := by
    intro r hret
    have hret' := hret.congr he
    cases hrun : c.run with
    | false => exact (hret.run_single hrun).trans (hret'.run_single hrun).symm
    | true =>
      cases hd : r.done with
      | true => exact (hret.run_done hd).trans (hret'.run_done hd).symm
      | false => rw [hret.run_next hrun hd, hret'.run_next hrun hd, hnext r hret hrun hd]
  cases h : engineStep c s with
  | ret r => exact returned r (.ret h)
  | call q s' k =>
    cases hx : s.answers with
    | nil => simp [hx, run_waits h hx] at hend
    | cons x xs =>
      cases x with
      | answer b => exact returned _ (.call h hx)
      | rst u => rw [run_rst h hx, run_rst (he ▸ h) hx]

/-- A run-to-completion command that comes to its end comes to the same end with any operand that stands past its step. -/
theorem run_withOperands_of_ends {s : State} (hrun : c.run = true) (ha : s.stage.toNat < 2 → a = c.addr)
    (hp : s.stage.toNat < 4 → pins = c.pins) (hend : (runCommand (engineGo 9 c s)).cmdReady = true) :
    runCommand (engineGo 9 c s) = runCommand (engineGo 9 (c.withOperands a pins) s) := by
  refine run_withOperands (engineStep_operands rfl rfl (fun h => ha (by simp [h])) (fun h => hp (by simp [h]))) (.inr hend)
    fun r hret _ hd => ?_
  have ⟨hstage, _⟩ := hret.progress hd
  rw [hret.run_next hrun hd] at hend
  exact run_withOperands_of_ends hrun (fun h => ha (by omega)) (fun h => hp (by omega)) hend
termination_by 16 - s.stage.toNat
decreasing_by omega

/-- The same of the state `t` in which it ends. -/
theorem ends_withOperands {t : State} (hrun : c.run = true) (ha : s.stage.toNat < 2 → a = c.addr)
    (hp : s.stage.toNat < 4 → pins = c.pins) (ht : t.cmdReady = true) (h : runCommand (engineGo 9 c s) = t) :
    runCommand (engineGo 9 (c.withOperands a pins) s) = t := by
  subst h
  exact (run_withOperands_of_ends hrun ha hp ht).symm

/-- A single-step command to which an input comes does the same with any operand that its step does not read. -/
theorem single_withOperands (hrun : c.run = false) (ha : s.stage = 1#4 → a = c.addr) (hp : s.stage = 3#4 → pins = c.pins)
    (hne : s.answers ≠ []) : runCommand (engineGo 9 c s) = runCommand (engineGo 9 (c.withOperands a pins) s) :=
  run_withOperands (engineStep_operands rfl rfl ha hp) (.inl hne) fun _ _ h => by simp [hrun] at h

end operands

/-! ### Steps one after the other (R100, R101) -/

/-- `n` steps of `c`, none of them the last, lead from `s` to `t`. -/
inductive StepsOn (c : EngineCmd) : Nat → State → State → Prop
  | refl (s : State) : StepsOn c 0 s s
  | cons {s t : State} {r : StepResult} {n : Nat} (h : StepReturns c s r) (hd : r.done = false) (hrest : StepsOn c n r.state t) :
      StepsOn c (n + 1) s t

section stepsOn
variable {c : EngineCmd} {s t : State} {n : Nat}

theorem StepsOn.stage (h : StepsOn c n s t) : t.stage.toNat = s.stage.toNat + n := by
  induction h with
  | refl => rfl
  | cons h hd _ ih =>
    have ⟨hstage, _⟩ := h.progress hd
    omega

theorem StepsOn.responses (h : StepsOn c n s t) : t.responses = s.responses := by
  induction h with
  | refl => rfl
  | cons h _ _ ih => exact ih.trans h.effect.left

/-- The first of several steps. -/
theorem StepsOn.take {m : Nat} (h : StepsOn c n s t) (hm : m ≤ n) : ∃ u, StepsOn c m s u := by
  induction h generalizing m with
  | refl s => obtain rfl := Nat.le_zero.mp hm; exact ⟨s, .refl s⟩
  | @cons s t r n h hd _ ih =>
    cases m with
    | zero => exact ⟨s, .refl s⟩
    | succ m =>
      obtain ⟨u, hu⟩ := ih (Nat.le_of_succ_le_succ hm)
      exact ⟨u, .cons h hd hu⟩

theorem StepsOn.append {m : Nat} {u : State} (h : StepsOn c m s t) (h' : StepsOn c n t u) : StepsOn c (n + m) s u := by
  induction h with
  | refl => exact h'
  | cons h hd _ ih => exact .cons h hd (ih h')

/-- A run-to-completion command makes them all. -/
theorem StepsOn.run (h : StepsOn c n s t) (hrun : c.run = true) : runCommand (engineGo 9 c s) = runCommand (engineGo 9 c t) := by
  induction h with
  | refl => rfl
  | cons h hd _ ih => rw [h.run_next hrun hd, ih]

/-- It ends with the return of the last step. -/
theorem StepsOn.run_end (h : StepsOn c n s t) (hrun : c.run = true) {r : StepResult} (hret : StepReturns c t r) (hd : r.done = true) :
    runCommand (engineGo 9 c s) = engineRespond c r := by
  rw [h.run hrun, hret.run_done hd]

/-- With an answer for each call that may still come, a step returns, and if it is not the last there are still enough. -/
theorem exists_stepReturns {xs rest : List BusInput} (hx : onlyAnswers xs = true) (hs : s.answers = xs ++ rest)
    (henough : c.kind.callStages ≤ s.stage.toNat + xs.length) :
    ∃ r xs', StepReturns c s r ∧ onlyAnswers xs' = true ∧ r.state.answers = xs' ++ rest ∧
      (r.done = false → c.kind.callStages ≤ r.state.stage.toNat + xs'.length) := by
  cases h : engineStep c s with
  | ret r =>
    have hret : StepReturns c s r := .ret h
    have ⟨hchange, _⟩ := engineStep_ret_effect h
    refine ⟨r, xs, hret, hx, by rw [hchange.frame, hs], fun hd => ?_⟩
    have ⟨hstage, _⟩ := hret.progress hd
    omega
  | call q s' k =>
    have hlt := engineStep_call_lt h
    cases xs with
    | nil => rw [List.length_nil] at henough; omega
    | cons x xs =>
      cases x with
      | rst u => simp [onlyAnswers] at hx
      | answer a =>
        rw [List.cons_append] at hs
        have hret := StepReturns.call h hs
        have ⟨g, w, hk, _, _, _, _, hflag, hsecond⟩ := engineStep_call_going h
        have ⟨hchange, _⟩ := Going.on_effect hflag hsecond a (s'.called (xs ++ rest) (q.event a))
        refine ⟨_, xs, hret, by simpa [onlyAnswers] using hx, by rw [hk, hchange.frame]; rfl, fun hd => ?_⟩
        have ⟨hstage, _⟩ := hret.progress hd
        rw [List.length_cons] at henough
        omega

/-- With enough answers a sequence comes to its last step, from any stage. -/
theorem exists_last_step {s : State} {xs rest : List BusInput} (hx : onlyAnswers xs = true) (hs : s.answers = xs ++ rest)
    (henough : c.kind.callStages ≤ s.stage.toNat + xs.length) :
    ∃ n t r, StepsOn c n s t ∧ StepReturns c t r ∧ r.done = true ∧ n ≤ c.kind.lastStage - s.stage.toNat := by
  obtain ⟨r, xs', hret, hx', hs', hnext⟩ := exists_stepReturns hx hs henough
  cases hd : r.done with
  | true => exact ⟨0, s, r, .refl s, hret, hd, Nat.zero_le _⟩
  | false =>
    have ⟨hstage, hlast⟩ := hret.progress hd
    obtain ⟨n, t, r', hsteps, hret', hd', hn⟩ := exists_last_step hx' hs' (hnext hd)
    exact ⟨n + 1, t, r', .cons hret hd hsteps, hret', hd', by omega⟩
termination_by 16 - s.stage.toNat
decreasing_by omega

end stepsOn

/-! ### What the host has seen so far does not matter -/

/-- `s` with another command in progress and other responses given so far: what a response writes. -/
def State.withReplies (s : State) (act : Option Activity) (ws : List PortWord) : State :=
  { s with activity := act, responses := ws }

/-- The return with the same change. -/
def StepResult.withReplies (r : StepResult) (act : Option Activity) (ws : List PortWord) : StepResult :=
  { r with state := r.state.withReplies act ws }

/-- The step with the same change. -/
def StepProg.withReplies (p : StepProg) (act : Option Activity) (ws : List PortWord) : StepProg :=
  match p with
  | .ret r => .ret (r.withReplies act ws)
  | .call q s k => .call q (s.withReplies act ws) k

section withReplies
variable (c : EngineCmd) (s : State) (act : Option Activity) (ws : List PortWord)

@[simp] theorem withReplies_stage : (s.withReplies act ws).stage = s.stage := rfl
@[simp] theorem withReplies_cfg : (s.withReplies act ws).cfg = s.cfg := rfl
@[simp] theorem withReplies_pend0 : (s.withReplies act ws).pend0 = s.pend0 := rfl
@[simp] theorem withReplies_responses : (s.withReplies act ws).responses = ws := rfl

@[simp] theorem withReplies_cmdReady : (s.withReplies none ws).cmdReady = true := rfl

@[simp] theorem withReplies_self : s.withReplies s.activity s.responses = s := rfl

theorem clearErrorIfIdle_withReplies : (s.withReplies act ws).clearErrorIfIdle = s.clearErrorIfIdle.withReplies act ws := by
  by_cases h : s.stage = 0#4
  · rw [clearErrorIfIdle_of_idle s h, clearErrorIfIdle_of_idle (s.withReplies act ws) h]; rfl
  · rw [clearErrorIfIdle_of_busy s h, clearErrorIfIdle_of_busy (s.withReplies act ws) h]

theorem writeStep_withReplies : writeStep c (s.withReplies act ws) = (writeStep c s).withReplies act ws := by
  simp only [writeStep, withReplies_stage]
  split
  case h_7 =>
    by_cases h : s.pend0 = s.cfg.ackSuccess
    · simp only [writeStep7, withReplies_pend0, withReplies_cfg, h, if_true]; rfl
    · simp only [writeStep7, withReplies_pend0, withReplies_cfg, h, if_false]; rfl
  all_goals rfl

theorem readStep_withReplies : readStep c (s.withReplies act ws) = (readStep c s).withReplies act ws := by
  simp only [readStep, withReplies_stage]
  split
  case h_6 =>
    cases h : nibbleCheck s.pend0
    · simp only [readStep6, withReplies_pend0, h]; rfl
    · simp only [readStep6, withReplies_pend0, h]
      cases c.discard <;> rfl
  all_goals rfl

theorem engineStep_withReplies : engineStep c (s.withReplies act ws) = (engineStep c s).withReplies act ws := by
  simp only [engineStep, withReplies_stage, clearErrorIfIdle_withReplies]
  split
  · rfl
  · cases c.kind
    · exact writeStep_withReplies c _ act ws
    · exact readStep_withReplies c _ act ws

theorem Going.on_withReplies (g : Going) (a : Answer) : g.on a (s.withReplies act ws) = (g.on a s).withReplies act ws := by
  cases g with
  | flagged n x => cases h : a.flag <;> simp only [Going.on, h] <;> rfl
  | sent | first | second => rfl

variable {c s}

theorem StepReturns.withReplies {r : StepResult} (h : StepReturns c s r) :
    StepReturns c (s.withReplies act ws) (r.withReplies act ws) := by
  cases h with
  | ret h => exact .ret (by rw [engineStep_withReplies, h]; rfl)
  | @call q s' k a rest h ha =>
    obtain ⟨g, w, rfl, -⟩ := engineStep_call_going h
    rw [← Going.on_withReplies]
    exact .call (s' := s'.withReplies act ws) (by rw [engineStep_withReplies, h]; rfl) ha

end withReplies

/-! ### A host that polls (R100) -/

/-- The response of an Engine command whose step returned `r`. -/
def engineReply (c : EngineCmd) (r : StepResult) : PortWord := reply r.done r.ok r.cause (engineData c r.state)

theorem engineReply_done (c : EngineCmd) (r : StepResult) : (engineReply c r).getLsbD 0 = r.done := word_done _

theorem engineReply_write {c : EngineCmd} (hk : c.kind = .write) (r : StepResult) : engineReply c r = reply r.done r.ok r.cause 0 := by
  simp [engineReply, engineData, hk]

section polls
variable {i : Instr} {c : EngineCmd} (hi : ∀ s, exec i s = .next (runCommand (engineGo 9 { c with run := false } s)))
  {s t : State} {r : StepResult} {n : Nat} (act : Option Activity) (ws : List PortWord)

theorem engineRespond_eq : engineRespond c r = r.state.responded (engineReply c r) := rfl

theorem engineRespond_withReplies : engineRespond c (r.withReplies act ws) =
    r.state.withReplies none (ws ++ [engineReply c r]) := by
  obtain ⟨kind, run, discard, addr, pins⟩ := c
  cases kind <;> rfl

theorem lastDone_engineReply : (s.withReplies act (ws ++ [engineReply c r])).lastDone = r.done := by
  rw [State.lastDone, withReplies_responses, List.getLast?_concat]
  exact engineReply_done c r

include hi

/-- One poll: the single-step command makes the step that `c` makes. -/
theorem StepReturns.exec_single (h : StepReturns c s r) : exec i (s.withReplies act ws) =
    .next (r.state.withReplies none (ws ++ [engineReply c r])) := by
  rw [hi, (h.single.withReplies act ws).run_single rfl, engineRespond_withReplies]
  rfl

/-- A host that polls until `done` stops at the last step of the sequence. -/
theorem StepsOn.poll (h : StepsOn c n s t) (hret : StepReturns c t r) (hd : r.done = true) (m : Nat) :
    ∃ ws', pollUntilDone i (n + m + 1) (s.withReplies act ws) = r.state.withReplies none (ws' ++ [engineReply c r]) := by
  induction h generalizing act ws with
  | refl s => exact ⟨ws, by simp [pollUntilDone, hret.exec_single hi, lastDone_engineReply, hd]⟩
  | @cons s t r₁ n h₁ hd₁ _ ih =>
    obtain ⟨ws', hws⟩ := ih none (ws ++ [engineReply c r₁]) hret
    refine ⟨ws', ?_⟩
    rw [← hws, show n + 1 + m + 1 = n + m + 1 + 1 by omega, pollUntilDone, h₁.exec_single hi]
    simp [lastDone_engineReply, hd₁]

/-- A host that issues a write's single-step command once for each of the steps gets the response `00` each time. -/
theorem StepsOn.execAll_replicate (hk : c.kind = .write) (h : StepsOn c n s t) (is : List Instr) :
    ∃ act', execAll (List.replicate n i ++ is) (s.withReplies act ws) =
      execAll is (t.withReplies act' (ws ++ List.replicate n (reply false false .noError 0))) := by
  induction h generalizing act ws with
  | refl s => exact ⟨act, by simp⟩
  | @cons s t r₁ n h₁ hd₁ _ ih =>
    obtain ⟨act', hact⟩ := ih none (ws ++ [reply false false .noError 0])
    obtain ⟨hok, hcause⟩ := h₁.going hd₁
    have hreply : engineReply c r₁ = reply false false .noError 0 := by rw [engineReply_write hk, hd₁, hok, hcause]
    refine ⟨act', ?_⟩
    rw [List.replicate_succ, List.cons_append, execAll, h₁.exec_single hi, hreply]
    simpa [List.replicate_succ] using hact

end polls

/-- A run-to-completion command `j` and a host that polls the single-step command `i` with the same operands come to the same end. -/
theorem run_eq_polling {i j : Instr} {c : EngineCmd} (hrun : c.run = true)
    (hj : ∀ s, exec j s = .next (runCommand (engineGo 9 c s)))
    (hi : ∀ s, exec i s = .next (runCommand (engineGo 9 { c with run := false } s))) {s : State} {xs rest : List BusInput}
    (hx : onlyAnswers xs = true) (hs : s.answers = xs ++ rest) (henough : c.kind.callStages ≤ xs.length) :
    ∃ (t : State) (w : PortWord),
      exec j s = .next t ∧ t.cmdReady = true ∧ w.getLsbD 0 = true ∧ t.responses = s.responses ++ [w] ∧
      (pollUntilDone i (c.kind.lastStage + 1) s).responses.getLast? = some w ∧
      { pollUntilDone i (c.kind.lastStage + 1) s with responses := t.responses } = t := by
  obtain ⟨n, u, r, hsteps, hret, hd, hn⟩ := exists_last_step (c := c) hx hs (by omega)
  obtain ⟨ws, hpoll⟩ := hsteps.poll hi s.activity s.responses hret hd (c.kind.lastStage - n)
  rw [withReplies_self, show n + (c.kind.lastStage - n) + 1 = c.kind.lastStage + 1 by omega] at hpoll
  refine ⟨engineRespond c r, engineReply c r, ?_, rfl, ?_, ?_, ?_, ?_⟩
  · rw [hj, hsteps.run_end hrun hret hd]
  · rw [engineReply_done, hd]
  · rw [engineRespond_eq, responded_responses, hret.effect.left, hsteps.responses]
  · simp [hpoll]
  · rw [hpoll]; rfl

/-! ### The write sequence (R91 to R99) -/

section writes
variable {pins : BitVec 2} {a : Address} {s : State} {r : StepResult} (h : StepReturns (writeRunCmd pins a) s r)
include h

theorem exec_writeStep_of_returns : exec (.writeStep pins a) s = .next (r.state.responded (reply r.done r.ok r.cause 0)) :=
  congrArg Host.Outcome.next (h.single.run_single rfl)

/-- A step that is neither the last nor aborted, in the two commands. -/
theorem write_of_going (hd : r.done = false) :
    exec (.writeStep pins a) s = .next (r.state.responded (reply false false .noError 0)) ∧
      exec (.writeRun pins a) s = exec (.writeRun pins a) r.state := by
  obtain ⟨hok, hc⟩ := h.going hd
  refine ⟨?_, congrArg Host.Outcome.next (h.run_next rfl hd)⟩
  rw [exec_writeStep_of_returns h, hd, hok, hc]

/-- The last step or an aborted one, in the two commands. -/
theorem write_of_done (hd : r.done = true) :
    exec (.writeStep pins a) s = .next (r.state.responded (reply true r.ok r.cause 0)) ∧
      exec (.writeRun pins a) s = .next (r.state.responded (reply true r.ok r.cause 0)) := by
  rw [exec_writeStep_of_returns h, ← hd]
  exact ⟨rfl, congrArg Host.Outcome.next (h.run_done hd)⟩

end writes

/-- A step whose answer's flag decides, in the two commands: `e` is its event, which shows the flag. -/
theorem write_of_flagged {pins : BitVec 2} {a : Address} {s s' : State} {q : Request} {n : BitVec 4} {x : Cause} {f : Answer}
    {rest : List BusInput} (h : engineStep (writeRunCmd pins a) s = .call q s' (Going.flagged n x).on)
    (ha : s.answers = .answer f :: rest) (e : Bool → Event) (he : q.event f = e f.flag) :
    (f.flag = true →
      exec (.writeStep pins a) s = .next ((goOn n (s'.called rest (e true))).state.responded (reply false false .noError 0)) ∧
      exec (.writeRun pins a) s = exec (.writeRun pins a) (goOn n (s'.called rest (e true))).state) ∧
    (f.flag = false →
      exec (.writeStep pins a) s = .next ((raise x (s'.called rest (e false))).state.responded (reply true false x 0)) ∧
      exec (.writeRun pins a) s = .next ((raise x (s'.called rest (e false))).state.responded (reply true false x 0))) := by
  refine ⟨fun hf => ?_, fun hf => ?_⟩
  · have hret := StepReturns.pass h ha hf
    rw [he, hf] at hret
    exact write_of_going hret rfl
  · have hret := StepReturns.abort h ha hf
    rw [he, hf] at hret
    exact write_of_done hret rfl

/-- The bits of the write-state byte (R62). -/
theorem stateByte_bits : ∀ pins : BitVec 2, (stateByte pins).getLsbD 0 = !pins.getLsbD 0 ∧
    (stateByte pins).getLsbD 1 = !pins.getLsbD 1 ∧ (stateByte pins).extractLsb' 2 6 = 0b111111 := by
  decide

/-- What the first six write steps put on the bus. -/
def writeEvents (cfg : Config) (a : Address) (pins : BitVec 2) (ack : Byte) : List Event :=
  [.reset true, .select a cfg.selectImmediate true, .writeByte cfg.cmdAccessWrite, .writeByte (stateByte pins),
    .writeByte (~~~stateByte pins), .readByte ack]

section steps
variable {c : EngineCmd} (hk : c.kind = .write) {s : State} {p ok x3 x4 x5 b b' p' : Answer} {rest : List BusInput} (hs : s.stage = 0)
  (hp : p.flag = true) (hok : ok.flag = true)
include hk hs hp hok

/-- From idle, with presence and selection, a write comes to the judgment of the acknowledgment. -/
theorem write_six_steps
    (ha : s.answers = .answer p :: .answer ok :: .answer x3 :: .answer x4 :: .answer x5 :: .answer b :: rest) :
    StepsOn c 6 s { s with
      answers := rest, trace := s.trace ++ writeEvents s.cfg c.addr c.pins b.byte, wstate := stateByte c.pins
      pend0 := b.byte, lastError := false, stage := 6 } := by
  have hsteps : StepsOn c 6 s _ := .cons (.pass (engineStep_write1 hk hs) ha hp) rfl <|
    .cons (.pass (engineStep_write2 hk rfl) rfl hok) rfl <| .cons (.call (engineStep_write3 hk rfl) rfl) rfl <|
    .cons (.call (engineStep_write4 hk rfl) rfl) rfl <| .cons (.call (engineStep_write5 hk rfl) rfl) rfl <|
    .cons (.call (engineStep_write6 hk rfl) rfl) rfl <| .refl _
  simpa [State.called, Request.event, Going.on, writeEvents, hp, hok] using hsteps

variable (hack : b.byte = s.cfg.ackSuccess)
include hack

/-- If it matches, a second byte is read. -/
theorem write_seven_steps
    (ha : s.answers =
      .answer p :: .answer ok :: .answer x3 :: .answer x4 :: .answer x5 :: .answer b :: .answer b' :: rest) :
    StepsOn c 7 s { s with
      answers := rest, trace := s.trace ++ writeEvents s.cfg c.addr c.pins b.byte ++ [.readByte b'.byte]
      wstate := stateByte c.pins, pend0 := b.byte, pend1 := b'.byte, lastError := false, stage := 7 } :=
  (write_six_steps hk hs hp hok ha).append <| .cons (.call (engineStep_write7_match hk rfl hack) rfl) rfl <| .refl _

/-- With a presence pulse after it the sequence comes to its last step. -/
theorem write_eight_steps (hp' : p'.flag = true)
    (ha : s.answers =
      .answer p :: .answer ok :: .answer x3 :: .answer x4 :: .answer x5 :: .answer b :: .answer b' :: .answer p' :: rest) :
    StepsOn c 8 s { s with
      answers := rest, trace := s.trace ++ writeEvents s.cfg c.addr c.pins b.byte ++ [.readByte b'.byte, .reset true]
      wstate := stateByte c.pins, pend0 := b.byte, pend1 := b'.byte, lastError := false, stage := 8 } := by
  have hsteps := (write_seven_steps hk hs hp hok hack ha).append <|
    .cons (.pass (engineStep_write8 hk rfl) rfl hp') rfl <| .refl _
  simpa [State.called, Request.event, hp'] using hsteps

end steps

/-- How WRITE.RUN ends. -/
theorem exec_writeRun_of_steps {pins : BitVec 2} {a : Address} {n : Nat} {s t : State} {r : StepResult}
    (hsteps : StepsOn (writeRunCmd pins a) n s t) (hret : StepReturns (writeRunCmd pins a) t r) (hd : r.done = true) :
    exec (.writeRun pins a) s = .next (r.state.responded (reply true r.ok r.cause 0)) := by
  rw [← hd]
  exact congrArg Host.Outcome.next (hsteps.run_end rfl hret hd)

/-! ### The obligations -/

/-- Settles O25: step 1 goes on or aborts as the flag of its answer says. -/
theorem writeStepOneResetsTheBus : Obligations.WriteStepOneResetsTheBus :=
  fun _ _ _ _ _ hs ha => write_of_flagged (engineStep_write1 rfl hs) ha .reset rfl

/-- Settles O26: step 2 goes on or aborts as the flag of its answer says. -/
theorem writeStepTwoSelectsTheDevice : Obligations.WriteStepTwoSelectsTheDevice :=
  fun _ a s _ _ hs ha => write_of_flagged (engineStep_write2 rfl hs) ha (.select a s.cfg.selectImmediate) rfl

/-- Settles O27: step 3 goes on when its byte has been sent. -/
theorem writeStepThreeSendsTheAccessWriteByte : Obligations.WriteStepThreeSendsTheAccessWriteByte :=
  fun _ _ _ _ _ hs ha => write_of_going (.call (engineStep_write3 rfl hs) ha) rfl

/-- Settles O28: the byte is the write-state byte of R62. -/
theorem writeStepFourSendsTheStateByte : Obligations.WriteStepFourSendsTheStateByte := by
  intro pins a s x rest hs ha
  obtain ⟨h0, h1, hrest⟩ := stateByte_bits pins
  exact ⟨stateByte pins, h0, h1, hrest, write_of_going (.call (engineStep_write4 rfl hs) ha) rfl⟩

/-- Settles O29: step 5 goes on when its byte has been sent. -/
theorem writeStepFiveSendsTheComplement : Obligations.WriteStepFiveSendsTheComplement :=
  fun _ _ _ _ _ hs ha => write_of_going (.call (engineStep_write5 rfl hs) ha) rfl

/-- Settles O30: step 6 keeps the byte of its answer and goes on. -/
theorem writeStepSixReadsTheAcknowledgment : Obligations.WriteStepSixReadsTheAcknowledgment :=
  fun _ _ _ _ _ hs ha => write_of_going (.call (engineStep_write6 rfl hs) ha) rfl

/-- Settles O31: step 7 makes a call if the acknowledgment matches, and aborts with none if not. -/
theorem writeStepSevenJudgesTheAcknowledgment : Obligations.WriteStepSevenJudgesTheAcknowledgment :=
  ⟨fun _ _ _ _ _ hs hack ha => write_of_going (.call (engineStep_write7_match rfl hs hack) ha) rfl,
    fun _ _ _ hs hack => write_of_done (.ret (engineStep_write7_mismatch rfl hs hack)) rfl⟩

/-- Settles O32: step 8 goes on or aborts as the flag of its answer says. -/
theorem writeStepEightResetsTheBusAgain : Obligations.WriteStepEightResetsTheBusAgain :=
  fun _ _ _ _ _ hs ha => write_of_flagged (engineStep_write8 rfl hs) ha .reset rfl

/-- Settles O33: step 9 is the last; R21 says that no error is pending in it. -/
theorem writeStepNineReturnsToIdle : Obligations.WriteStepNineReturnsToIdle := by
  intro pins a s hs
  obtain ⟨hstep, hrun⟩ := write_of_done (.ret (engineStep_write9 (c := writeRunCmd pins a) rfl hs)) rfl
  refine ⟨hstep, hrun, fun ⟨_, herr, _⟩ => ?_⟩
  rwa [finish_ok, herr (by simp [hs])] at hstep

/-- Settles O42: the sequence is cut at the first step that aborts, or goes on to its last. -/
theorem writeRunFromIdle : Obligations.WriteRunFromIdle := by
  intro pins a s p ok x3 x4 x5 b b' p' rest hs w imm sent s0
  have hidle : s0.stage = 0 := hs
  have hk : (writeRunCmd pins a).kind = .write := rfl
  refine ⟨fun hp => ?_, fun hp hok => ?_, fun hp hok hack => ?_, fun hp hok hack => ?_⟩
  · have hrun := exec_writeRun_of_steps (.refl s0) (.abort (engineStep_write1 hk hidle) rfl hp) rfl
    rw [Request.event, hp] at hrun
    exact hrun
  · have hone := StepsOn.cons (.pass (engineStep_write1 hk hidle) rfl hp) rfl (.refl _)
    have hrun := exec_writeRun_of_steps hone (.abort (engineStep_write2 hk rfl) rfl hok) rfl
    simp only [State.called, Request.event, hp, hok, goOn_state, List.append_assoc] at hrun
    exact hrun
  · have hsix := write_six_steps hk hidle hp hok rfl
    exact exec_writeRun_of_steps hsix (.ret (engineStep_write7_mismatch hk rfl hack)) rfl
  · cases hp' : p'.flag with
    | false =>
      have hseven := write_seven_steps hk hidle hp hok hack rfl
      have hrun := exec_writeRun_of_steps hseven (.abort (engineStep_write8 hk rfl) rfl hp') rfl
      simp only [State.called, Request.event, hp', List.append_assoc] at hrun ⊢
      exact hrun
    | true =>
      have height := write_eight_steps hk hidle hp hok hack hp' rfl
      exact exec_writeRun_of_steps height (.ret (engineStep_write9 hk rfl)) rfl

/-- Settles O44: the single-step command makes the steps that the run-to-completion command makes. -/
theorem runToCompletionIsPollingUntilDone : Obligations.RunToCompletionIsPollingUntilDone := by
  intro pins a s xs rest hx hs
  exact ⟨fun hlen => run_eq_polling (c := writeRunCmd pins a) rfl (fun _ => rfl) (fun _ => rfl) hx hs hlen.ge,
    fun hlen => run_eq_polling (c := readRunCmd a) rfl (fun _ => rfl) (fun _ => rfl) hx hs hlen.ge⟩

/-- Settles O45: the host takes the sequence step by step, and the ninth response is that of the last. -/
theorem ninePollingCallsWrite : Obligations.NinePollingCallsWrite := by
  intro pins a s p ok x3 x4 x5 b b' p' rest n hs hp hok hack hp' ha
  have hk : (writeRunCmd pins a).kind = .write := rfl
  have height := write_eight_steps hk hs hp hok hack hp' ha
  have hgoing : wordOfBytes [0x00] = reply false false .noError 0 := by decide
  have hlast : wordOfBytes [0x03] = reply true true .noError 0 := by decide
  rw [hgoing, hlast]
  constructor
  · intro hn
    obtain ⟨u, hu⟩ := height.take hn
    obtain ⟨act, hexec⟩ := hu.execAll_replicate (i := .writeStep pins a) (fun _ => rfl) s.activity s.responses rfl []
    rw [List.append_nil, withReplies_self] at hexec
    refine ⟨_, hexec, ?_, rfl⟩
    have hstage := hu.stage
    rw [hs] at hstage
    simp only [withReplies_stage]
    bv_omega
  · obtain ⟨act, hexec⟩ := height.execAll_replicate (i := .writeStep pins a) (fun _ => rfl) s.activity s.responses rfl
      [.writeStep pins a]
    rw [← List.replicate_succ', withReplies_self, execAll,
      (StepReturns.ret (engineStep_write9 hk rfl)).exec_single (fun _ => rfl)] at hexec
    exact ⟨_, hexec, rfl, rfl, rfl, rfl⟩

/-- Settles O48: a step other than the one that reads the operand is the same with another, and so is every step after it. -/
theorem operandsMatterOnlyAtTheirStep : Obligations.OperandsMatterOnlyAtTheirStep := by
  intro pins pins' a a' s
  refine ⟨fun hne => ⟨fun h1 => ⟨?_, ?_⟩, fun h3 => ?_⟩,
    fun t ht => ⟨fun h2 => ⟨fun h => ?_, fun h => ?_, fun h => ?_⟩, fun h4 h => ?_⟩⟩
  · exact congrArg _ (single_withOperands (c := writeStepCmd pins a) rfl (absurd · h1) (fun _ => rfl) hne)
  · exact congrArg _ (single_withOperands (c := readStepCmd a) rfl (absurd · h1) (fun _ => rfl) hne)
  · exact congrArg _ (single_withOperands (c := writeStepCmd pins a) rfl (fun _ => rfl) (absurd · h3) hne)
  · exact congrArg _ (ends_withOperands (c := writeRunCmd pins a) rfl (by omega) (fun _ => rfl) ht (Host.Outcome.next.inj h))
  · exact congrArg _ (ends_withOperands (c := readRunCmd a) rfl (by omega) (fun _ => rfl) ht (Host.Outcome.next.inj h))
  · exact congrArg _ (ends_withOperands (c := isConnCmd a) rfl (by omega) (fun _ => rfl) ht (Host.Outcome.next.inj h))
  · exact congrArg _ (ends_withOperands (c := writeRunCmd pins a) rfl (fun _ => rfl) (by omega) ht (Host.Outcome.next.inj h))

end Sys2Proof.Machine
end

section
/-! The read sequence (R111 to R117), its three commands READ.STEP, READ.RUN and ISCONN (R118 to R120), and the bus of a device that
echoes (R122). -/

namespace Sys2Proof.Machine

/-! ### `PINS` set aside: a command that discards the pins makes the same steps (R110, R120) -/

/-- `c` with `discard` 1. -/
def EngineCmd.discarding (c : EngineCmd) : EngineCmd := { c with discard := true }

/-- `s` with other pins. -/
def State.withPins (s : State) (pins : BitVec 2) : State := { s with PINS := pins }

/-- The return with the same change. -/
def StepResult.withPins (r : StepResult) (pins : BitVec 2) : StepResult := { r with state := r.state.withPins pins }

/-- The step with the same change. -/
def StepProg.withPins (p : StepProg) (pins : BitVec 2) : StepProg :=
  match p with
  | .ret r => .ret (r.withPins pins)
  | .call q s k => .call q (s.withPins pins) k

section withPins
variable (c : EngineCmd) (s : State) (pins : BitVec 2)

@[simp] theorem withPins_stage : (s.withPins pins).stage = s.stage := rfl
@[simp] theorem withPins_pend0 : (s.withPins pins).pend0 = s.pend0 := rfl
@[simp] theorem withPins_self : s.withPins s.PINS = s := rfl

theorem clearErrorIfIdle_withPins : (s.withPins pins).clearErrorIfIdle = s.clearErrorIfIdle.withPins pins := by
  by_cases h : s.stage = 0#4
  · rw [clearErrorIfIdle_of_idle s h, clearErrorIfIdle_of_idle (s.withPins pins) h]; rfl
  · rw [clearErrorIfIdle_of_busy s h, clearErrorIfIdle_of_busy (s.withPins pins) h]

theorem readStep_discarding : readStep c.discarding (s.withPins pins) = (readStep c s).withPins pins := by
  simp only [readStep, withPins_stage]
  split
  case h_6 =>
    cases h : nibbleCheck s.pend0
    · simp only [readStep6, withPins_pend0, h]; rfl
    · simp only [readStep6, withPins_pend0, h]
      cases c.discard <;> rfl
  all_goals rfl

variable {c s}

theorem engineStep_discarding (hk : c.kind = .read) :
    engineStep c.discarding (s.withPins pins) = (engineStep c s).withPins pins := by
  have hk' : c.discarding.kind = .read := hk
  simp only [engineStep, hk, hk', withPins_stage, clearErrorIfIdle_withPins]
  split
  · rfl
  · exact readStep_discarding c _ pins

theorem Going.on_withPins (g : Going) (a : Answer) : g.on a (s.withPins pins) = (g.on a s).withPins pins := by
  cases g with
  | flagged n x => cases h : a.flag <;> simp only [Going.on, h] <;> rfl
  | sent | first | second => rfl

/-- The command that discards makes the step that `c` makes, but for what it does to the pins. -/
theorem StepReturns.discarding {r : StepResult} (hk : c.kind = .read) (h : StepReturns c s r) :
    StepReturns c.discarding (s.withPins pins) (r.withPins pins) := by
  cases h with
  | ret h => exact .ret (by rw [engineStep_discarding pins hk, h]; rfl)
  | @call q s' k a rest h ha =>
    obtain ⟨g, w, rfl, -⟩ := engineStep_call_going h
    rw [← Going.on_withPins]
    exact .call (s' := s'.withPins pins) (by rw [engineStep_discarding pins hk, h]; rfl) ha

theorem StepsOn.discarding {n : Nat} {t : State} (hk : c.kind = .read) (h : StepsOn c n s t) :
    StepsOn c.discarding n (s.withPins pins) (t.withPins pins) := by
  induction h with
  | refl => exact .refl _
  | cons h hd _ ih => exact .cons (h.discarding pins hk) hd ih

end withPins

/-- Read step 6 alone writes the pins. -/
theorem StepReturns.PINS_of_stage_ne {c : EngineCmd} {s : State} {r : StepResult} (h : StepReturns c s r) (hs : s.stage ≠ 5#4) :
    r.state.PINS = s.PINS := by
  cases h with
  | ret h =>
    have shape := engineStep_shape c s
    rw [h] at shape
    cases shape with
    | aborts => rfl
    | ends => rfl
    | decodes pins hk h5 => exact absurd h5 hs
  | call h ha =>
    obtain ⟨g, w, rfl, rfl, -⟩ := engineStep_call_going h
    rcases Going.on_cases g _ _ with ⟨b, b', hgo⟩ | ⟨n, x, -, hgo⟩
    · rw [hgo]; simp
    · rw [hgo]; simp

/-- The steps up to read step 6 leave the pins as they are. -/
theorem StepsOn.PINS {c : EngineCmd} {n : Nat} {s t : State} (h : StepsOn c n s t) (ht : t.stage.toNat ≤ 5) : t.PINS = s.PINS := by
  induction h with
  | refl => rfl
  | cons h hd hrest ih =>
    have ⟨hstage, _⟩ := h.progress hd
    have hlater := hrest.stage
    exact (ih ht).trans (h.PINS_of_stage_ne (by bv_omega))

/-! ### A read step in the three commands -/

section reads
variable {a : Address} {s : State} {r : StepResult} (h : StepReturns (readRunCmd a) s r)
include h

theorem exec_readStep_of_returns :
    exec (.readStep a) s = .next (r.state.responded (reply r.done r.ok r.cause r.state.pinsByte)) :=
  congrArg Host.Outcome.next (h.single.run_single rfl)

/-- ISCONN makes the step too, and keeps the pins. -/
theorem StepReturns.isConn : StepReturns (isConnCmd a) s (r.withPins s.PINS) := h.discarding s.PINS rfl

/-- A step that is neither the last nor aborted, in the three commands. -/
theorem read_of_going (hd : r.done = false) :
    exec (.readStep a) s = .next (r.state.responded (reply false false .noError r.state.pinsByte)) ∧
      exec (.readRun a) s = exec (.readRun a) r.state ∧ exec (.isConn a) s = exec (.isConn a) (r.state.withPins s.PINS) := by
  obtain ⟨hok, hc⟩ := h.going hd
  refine ⟨?_, congrArg Host.Outcome.next (h.run_next rfl hd), congrArg Host.Outcome.next (h.isConn.run_next rfl hd)⟩
  rw [exec_readStep_of_returns h, hd, hok, hc]

/-- The last step or an aborted one, in the three commands. -/
theorem read_of_done (hd : r.done = true) :
    exec (.readStep a) s = .next (r.state.responded (reply true r.ok r.cause r.state.pinsByte)) ∧
      exec (.readRun a) s = .next (r.state.responded (reply true r.ok r.cause r.state.pinsByte)) ∧
      exec (.isConn a) s = .next ((r.state.withPins s.PINS).responded (reply true r.ok r.cause 0)) := by
  rw [exec_readStep_of_returns h, ← hd]
  exact ⟨rfl, congrArg Host.Outcome.next (h.run_done hd), congrArg Host.Outcome.next (h.isConn.run_done hd)⟩

end reads

/-- A step whose answer's flag decides, in the three commands: `e` is its event, which shows the flag. -/
theorem read_of_flagged {a : Address} {s s' : State} {q : Request} {n : BitVec 4} {x : Cause} {f : Answer} {rest : List BusInput}
    (h : engineStep (readRunCmd a) s = .call q s' (Going.flagged n x).on) (ha : s.answers = .answer f :: rest) (e : Bool → Event)
    (he : q.event f = e f.flag) :
    (f.flag = true →
      let s1 := (goOn n (s'.called rest (e true))).state
      exec (.readStep a) s = .next (s1.responded (reply false false .noError s1.pinsByte)) ∧
      exec (.readRun a) s = exec (.readRun a) s1 ∧ exec (.isConn a) s = exec (.isConn a) (s1.withPins s.PINS)) ∧
    (f.flag = false →
      let s1 := (raise x (s'.called rest (e false))).state
      exec (.readStep a) s = .next (s1.responded (reply true false x s1.pinsByte)) ∧
      exec (.readRun a) s = .next (s1.responded (reply true false x s1.pinsByte)) ∧
      exec (.isConn a) s = .next ((s1.withPins s.PINS).responded (reply true false x 0))) := by
  refine ⟨fun hf => ?_, fun hf => ?_⟩
  · have hret := StepReturns.pass h ha hf
    rw [he, hf] at hret
    exact read_of_going hret rfl
  · have hret := StepReturns.abort h ha hf
    rw [he, hf] at hret
    exact read_of_done hret rfl

/-! ### The read-result byte (R63) -/

/-- The nibble check on the two nibbles of the byte (R116). -/
theorem nibbleCheck_iff : ∀ r : Byte, nibbleCheck r = true ↔ (~~~r).extractLsb' 0 4 = r.extractLsb' 4 4 := by decide

theorem decodePins_getLsbD_zero (cfg : Config) (r : Byte) : (decodePins cfg r).getLsbD 0 = !r.getLsbD cfg.rdPin0Bit := by
  rw [decodePins, BitVec.getLsbD_append]
  simp

theorem decodePins_getLsbD_one (cfg : Config) (r : Byte) : (decodePins cfg r).getLsbD 1 = !r.getLsbD cfg.rdPin1Bit := by
  rw [decodePins, BitVec.getLsbD_append]
  simp

/-- Where the read bits are bits 0 and 1, a byte that has those bits of the write-state byte decodes to the pins written (R122). -/
theorem decodePins_of_echo {cfg : Config} (h0 : cfg.rdPin0Bit = 0) (h1 : cfg.rdPin1Bit = 1) {r : Byte} {pins : BitVec 2}
    (hr0 : r.getLsbD 0 = (stateByte pins).getLsbD 0) (hr1 : r.getLsbD 1 = (stateByte pins).getLsbD 1) : decodePins cfg r = pins := by
  obtain ⟨hw0, hw1, -⟩ := stateByte_bits pins
  refine BitVec.eq_of_getLsbD_eq fun i hi => ?_
  obtain rfl | rfl : i = 0 ∨ i = 1 := by omega
  · rw [decodePins_getLsbD_zero, h0, Fin.val_zero, hr0, hw0, Bool.not_not]
  · rw [decodePins_getLsbD_one, h1, Fin.val_one, hr1, hw1, Bool.not_not]

/-! ### The read sequence from idle -/

/-- What the first four read steps put on the bus. -/
def readEvents (cfg : Config) (a : Address) (b : Byte) : List Event :=
  [.reset true, .select a cfg.selectImmediate true, .writeByte cfg.cmdAccessRead, .readByte b]

section steps
variable {c : EngineCmd} (hk : c.kind = .read) {s : State} {p ok x3 b p' : Answer} {rest : List BusInput} (hs : s.stage = 0)
  (hp : p.flag = true) (hok : ok.flag = true)
include hk hs hp hok

/-- With presence and selection, a read comes to the second reset. -/
theorem read_four_steps (ha : s.answers = .answer p :: .answer ok :: .answer x3 :: .answer b :: rest) :
    StepsOn c 4 s { s with
      answers := rest, trace := s.trace ++ readEvents s.cfg c.addr b.byte, pend0 := b.byte, lastError := false, stage := 4 } := by
  have hsteps : StepsOn c 4 s _ := .cons (.pass (engineStep_read1 hk hs) ha hp) rfl <|
    .cons (.pass (engineStep_read2 hk rfl) rfl hok) rfl <| .cons (.call (engineStep_read3 hk rfl) rfl) rfl <|
    .cons (.call (engineStep_read4 hk rfl) rfl) rfl <| .refl _
  simpa [State.called, Request.event, Going.on, readEvents, hp, hok] using hsteps

variable (hp' : p'.flag = true)
  (ha : s.answers = .answer p :: .answer ok :: .answer x3 :: .answer b :: .answer p' :: rest)
include hp' ha

/-- With a presence pulse it comes to the judgment of the result byte. -/
theorem read_five_steps : StepsOn c 5 s { s with
    answers := rest, trace := s.trace ++ readEvents s.cfg c.addr b.byte ++ [.reset true], pend0 := b.byte, lastError := false
    stage := 5 } := by
  have hsteps := (read_four_steps hk hs hp hok ha).append <| .cons (.pass (engineStep_read5 hk rfl) rfl hp') rfl <| .refl _
  simpa [State.called, Request.event, hp'] using hsteps

/-- If the byte passes the check the pins are decoded, and the last step is left. -/
theorem read_six_steps (hd : c.discard = false) (hn : nibbleCheck b.byte = true) : StepsOn c 6 s { s with
    answers := rest, trace := s.trace ++ readEvents s.cfg c.addr b.byte ++ [.reset true], pend0 := b.byte
    PINS := decodePins s.cfg b.byte, lastError := false, stage := 6 } := by
  have hsteps := (read_five_steps hk hs hp hok hp' ha).append <| .cons (.ret (engineStep_read6_pass hk rfl hn)) rfl <| .refl _
  simpa [hd] using hsteps

end steps

/-- How READ.RUN ends. -/
theorem exec_readRun_of_steps {a : Address} {n : Nat} {s t : State} {r : StepResult} (hsteps : StepsOn (readRunCmd a) n s t)
    (hret : StepReturns (readRunCmd a) t r) (hd : r.done = true) :
    exec (.readRun a) s = .next (r.state.responded (reply true r.ok r.cause r.state.pinsByte)) := by
  rw [← hd]
  exact congrArg Host.Outcome.next (hsteps.run_end rfl hret hd)

/-- A command that ends is followed by the next. -/
theorem execAll_cons {i : Instr} {is : List Instr} {s t : State} (h : exec i s = .next t) (ht : t.cmdReady = true) :
    execAll (i :: is) s = execAll is t := by
  simp [execAll, h, ht]

/-- READ.STEP makes one step and ends. -/
theorem StepReturns.execAll_readStep {a : Address} {s : State} {r : StepResult} (h : StepReturns (readRunCmd a) s r)
    (act : Option Activity) (ws : List PortWord) (is : List Instr) :
    execAll (.readStep a :: is) (s.withReplies act ws) =
      execAll is (r.state.withReplies none (ws ++ [reply r.done r.ok r.cause r.state.pinsByte])) :=
  execAll_cons (h.exec_single (fun _ => rfl) act ws) rfl

/-- A host that issues READ.STEP for steps up to the sixth gets the pins as they were each time. -/
theorem StepsOn.execAll_replicate_readStep {a : Address} {n : Nat} {s t : State} (h : StepsOn (readRunCmd a) n s t)
    (ht : t.stage.toNat ≤ 5) (act : Option Activity) (ws : List PortWord) (is : List Instr) :
    ∃ act', execAll (List.replicate n (.readStep a) ++ is) (s.withReplies act ws) =
      execAll is (t.withReplies act' (ws ++ List.replicate n (reply false false .noError s.pinsByte))) := by
  induction h generalizing act ws with
  | refl s => exact ⟨act, by simp⟩
  | @cons s t r₁ n h₁ hd₁ hrest ih =>
    obtain ⟨act', hact⟩ := ih ht none (ws ++ [reply false false .noError s.pinsByte])
    obtain ⟨hok, hcause⟩ := h₁.going hd₁
    have hpins : r₁.state.pinsByte = s.pinsByte := by
      rw [State.pinsByte, ← hrest.PINS ht, (StepsOn.cons h₁ hd₁ hrest).PINS ht, State.pinsByte]
    refine ⟨act', ?_⟩
    rw [List.replicate_succ, List.cons_append, h₁.execAll_readStep, hd₁, hok, hcause, hpins, hact, hpins, List.append_assoc]
    rfl

/-! ### The obligations -/

/-- Settles O34: step 1 goes on or aborts as the flag of its answer says. -/
theorem readStepOneResetsTheBus : Obligations.ReadStepOneResetsTheBus :=
  fun _ _ _ _ hs ha => read_of_flagged (engineStep_read1 rfl hs) ha .reset rfl

/-- Settles O35: step 2 goes on or aborts as the flag of its answer says. -/
theorem readStepTwoSelectsTheDevice : Obligations.ReadStepTwoSelectsTheDevice :=
  fun a s _ _ hs ha => read_of_flagged (engineStep_read2 rfl hs) ha (.select a s.cfg.selectImmediate) rfl

/-- Settles O36: step 3 goes on when its byte has been sent. -/
theorem readStepThreeSendsTheAccessReadByte : Obligations.ReadStepThreeSendsTheAccessReadByte :=
  fun _ _ _ _ hs ha => read_of_going (.call (engineStep_read3 rfl hs) ha) rfl

/-- Settles O37: step 4 keeps the byte of its answer and goes on. -/
theorem readStepFourReadsTheResultByte : Obligations.ReadStepFourReadsTheResultByte :=
  fun _ _ _ _ hs ha => read_of_going (.call (engineStep_read4 rfl hs) ha) rfl

/-- Settles O38: step 5 goes on or aborts as the flag of its answer says. -/
theorem readStepFiveResetsTheBusAgain : Obligations.ReadStepFiveResetsTheBusAgain :=
  fun _ _ _ _ hs ha => read_of_flagged (engineStep_read5 rfl hs) ha .reset rfl

/-- Settles O39: step 6 decodes the pins if the nibbles agree, and aborts if not; ISCONN makes it with the pins set aside. -/
theorem readStepSixValidatesAndDecodes : Obligations.ReadStepSixValidatesAndDecodes := by
  intro a s hs
  rw [ne_eq, ← nibbleCheck_iff, Bool.not_eq_true]
  refine ⟨fun hn => ⟨decodePins s.cfg s.pend0, decodePins_getLsbD_zero .., decodePins_getLsbD_one .., ?_⟩, fun hn => ?_⟩
  · exact read_of_going (.ret (engineStep_read6_pass rfl hs hn)) rfl
  · exact read_of_done (.ret (engineStep_read6_fail rfl hs hn)) rfl

/-- Settles O40: step 7 is the last; R21 says that no error is pending in it. -/
theorem readStepSevenReturnsToIdle : Obligations.ReadStepSevenReturnsToIdle := by
  intro a s hs
  obtain ⟨hstep, hrun, hconn⟩ := read_of_done (.ret (engineStep_read7 (c := readRunCmd a) rfl hs)) rfl
  refine ⟨hstep, hrun, hconn, fun ⟨_, herr, _⟩ => ?_⟩
  rw [herr (by simp [hs])]
  rfl

/-- Settles O43: the sequence is cut at the first step that aborts, or goes on to its last. -/
theorem readRunFromIdle : Obligations.ReadRunFromIdle := by
  intro a s p ok x3 b p' rest hs imm s0 trace
  have hidle : s0.stage = 0 := hs
  have hk : (readRunCmd a).kind = .read := rfl
  refine ⟨fun hp => ?_, fun hp hok => ?_, fun hp hok hp' => ?_, fun hp hok hp' hn => ?_, fun hp hok hp' hn => ?_⟩
  · have hrun := exec_readRun_of_steps (.refl s0) (.abort (engineStep_read1 hk hidle) rfl hp) rfl
    rw [Request.event, hp] at hrun
    exact hrun
  · have hone := StepsOn.cons (.pass (engineStep_read1 hk hidle) rfl hp) rfl (.refl _)
    have hrun := exec_readRun_of_steps hone (.abort (engineStep_read2 hk rfl) rfl hok) rfl
    simp only [State.called, Request.event, hp, hok, goOn_state, List.append_assoc] at hrun
    exact hrun
  · have hfour := read_four_steps hk hidle hp hok rfl
    have hrun := exec_readRun_of_steps hfour (.abort (engineStep_read5 hk rfl) rfl hp') rfl
    simp only [State.called, Request.event, hp', List.append_assoc] at hrun
    simp only [trace, hp']
    exact hrun
  · have hfive := read_five_steps hk hidle hp hok hp' rfl
    have hrun := exec_readRun_of_steps hfive (.ret (engineStep_read6_fail hk rfl hn)) rfl
    simp only [List.append_assoc] at hrun
    simp only [trace, hp']
    exact hrun
  · have hsix := read_six_steps hk hidle hp hok hp' rfl rfl hn
    have hrun := exec_readRun_of_steps hsix (.ret (engineStep_read7 hk rfl)) rfl
    simp only [List.append_assoc] at hrun
    simp only [trace, hp']
    exact hrun

/-- Settles O46: the host takes the sequence step by step; the pins change in the sixth. -/
theorem sevenPollingCallsRead : Obligations.SevenPollingCallsRead := by
  intro a s p ok x3 b p' rest n hs hp hok hn hp' ha old pins
  have hk : (readRunCmd a).kind = .read := rfl
  obtain ⟨u, hfive, h5, hcfg, hbyte, herr, hrest⟩ : ∃ u, StepsOn (readRunCmd a) 5 s u ∧
      u.stage = 5 ∧ u.cfg = s.cfg ∧ u.pend0 = b.byte ∧ u.lastError = false ∧ u.answers = rest :=
    ⟨_, read_five_steps hk hs hp hok hp' ha, rfl, rfl, rfl, rfl, rfl⟩
  have hsixth := StepReturns.ret (engineStep_read6_pass hk h5 (hbyte ▸ hn))
  have hpins : decodePins u.cfg u.pend0 = pins := by rw [hcfg, hbyte]
  rw [hpins] at hsixth
  have hlast := StepReturns.ret (engineStep_read7 hk (s := { u with PINS := pins, stage := 6 }) rfl)
  refine ⟨fun hle => ?_, ?_, ?_⟩
  · obtain ⟨v, hv⟩ := hfive.take hle
    have hstage : v.stage.toNat = n := by simpa [hs] using hv.stage
    have hbefore : v.stage.toNat ≤ 5 := by omega
    obtain ⟨act, hexec⟩ := hv.execAll_replicate_readStep hbefore s.activity s.responses []
    rw [List.append_nil, withReplies_self] at hexec
    exact ⟨_, hexec, by simp only [withReplies_stage]; bv_omega, hv.PINS hbefore, rfl⟩
  · obtain ⟨act, hexec⟩ := hfive.execAll_replicate_readStep (by simp [h5]) s.activity s.responses [.readStep a]
    rw [hsixth.execAll_readStep] at hexec
    exact ⟨_, hexec, rfl, rfl, rfl⟩
  · obtain ⟨act, hexec⟩ := hfive.execAll_replicate_readStep (by simp [h5]) s.activity s.responses [.readStep a, .readStep a]
    rw [hsixth.execAll_readStep] at hexec
    refine ⟨_, hexec.trans (hlast.execAll_readStep ..), rfl, rfl, hrest, ?_⟩
    rw [withReplies_responses, finish_ok, herr, List.append_assoc]
    rfl

/-- Settles O47: ISCONN makes the steps that READ.RUN makes, with the pins set aside. -/
theorem isConnIsReadRunWithoutThePins : Obligations.IsConnIsReadRunWithoutThePins := by
  intro a s xs rest hx hlen hs
  have hk : (readRunCmd a).kind = .read := rfl
  obtain ⟨n, t, r, hsteps, hret, hd, -⟩ := exists_last_step (c := readRunCmd a) hx hs (Nat.le_add_left_of_le hlen.ge)
  have hresp : r.state.responses = s.responses := hret.effect.left.trans hsteps.responses
  refine ⟨_, r.ok, r.cause, exec_readRun_of_steps hsteps hret hd, by rw [responded_responses, hresp]; rfl, ?_⟩
  have hconn := (hsteps.discarding s.PINS hk).run_end rfl (hret.discarding s.PINS hk) hd
  rw [← hresp, ← hd]
  exact congrArg Host.Outcome.next hconn

/-- Settles O50: both sequences pass every step, and the byte read decodes to the pins written. -/
theorem pinsWrittenAreReadBackFromAnEcho : Obligations.PinsWrittenAreReadBackFromAnEcho := by
  intro pins a s p ok x3 x4 x5 b b' p' q ok' y3 r q' rest hs h0 h1 hp hok hack hp' hq hok' hq' hn hr0 hr1 ha
  obtain ⟨t, hwrite, hready, hidle, hcfg, hans, hresp⟩ : ∃ t, exec (.writeRun pins a) s = .next t ∧ t.cmdReady = true ∧
      t.stage = 0 ∧ t.cfg = s.cfg ∧ t.answers = .answer q :: .answer ok' :: .answer y3 :: .answer r :: .answer q' :: rest ∧
      t.responses = s.responses ++ [reply true true .noError 0] :=
    ⟨_, exec_writeRun_of_steps (write_eight_steps (c := writeRunCmd pins a) rfl hs hp hok hack hp' ha)
      (.ret (engineStep_write9 rfl rfl)) rfl, rfl, rfl, rfl, rfl, rfl⟩
  have hread := exec_readRun_of_steps (read_six_steps (c := readRunCmd a) rfl hidle hq hok' hq' hans rfl hn)
    (.ret (engineStep_read7 rfl rfl)) rfl
  have hpins : decodePins t.cfg r.byte = pins := by rw [hcfg, decodePins_of_echo h0 h1 hr0 hr1]
  rw [hpins] at hread
  refine ⟨_, (execAll_cons hwrite hready).trans (execAll_cons hread rfl), rfl, ?_⟩
  rw [responded_responses, finish_state, hresp, List.append_assoc]
  rfl

end Sys2Proof.Machine
end

section
/-! The system commands and the frame of every command: reserved opcodes (R54, R132), NOP (R130), GETSTAT (R131), and what each command
leaves unchanged (R22, R133). -/

namespace Sys2Proof

/-! ### The reserved opcodes -/

/-- The table of R53 and the reserved opcodes of R54 have none in common. -/
theorem opcode_not_reserved (i : Instr) : i.opcode.toNat ∉ List.range' 0x09 7 ++ List.range' 0x15 235 := by
  cases i <;> (dsimp only [Instr.opcode]; decide)

/-- The decoder's last branch is reached past the 14 opcodes of R53, with one of R54. -/
theorem decode_error_iff (w : PortWord) :
    (∃ e, decode w = .error e) ↔ (opcodeField w).toNat ∈ List.range' 0x09 7 ++ List.range' 0x15 235 := by
  constructor
  · rintro ⟨e, h⟩
    have hlt := (opcodeField w).isLt
    unfold decode at h
    split at h <;> cases h
    rw [List.mem_append, List.mem_range'_1, List.mem_range'_1]
    simp only [imp_false] at *
    omega
  · intro hres
    cases h : decode w with
    | error e => exact ⟨e, rfl⟩
    | ok i =>
      obtain ⟨hop, -⟩ := opcode_and_wellFormed_of_decode h
      exact absurd (hop ▸ hres) (opcode_not_reserved i)

end Sys2Proof

namespace Sys2Proof.Machine

theorem step_of_reserved {s : State} {w : PortWord} {rest : List HostInput} {e : DecodeError} (ha : s.activity = none)
    (hh : s.host = .command w :: rest) (hd : decode w = .error e) : step s = illegalCommand { s with host := rest } := by
  simp only [step, fetch, ha, hh, hd]

theorem illegalCommand_eq (s : State) : illegalCommand s = .next (s.responded (reply true false .illegalCommand 0)) := rfl

/-! ### The status byte -/

/-- The three fields of the status byte (R131). -/
theorem statusByte_fields (s : State) :
    s.statusByte.getLsbD 0 = s.lastError ∧ s.statusByte.extractLsb' 1 3 = 0 ∧ s.statusByte.extractLsb' 4 4 = s.stage := by
  unfold State.statusByte
  generalize s.stage = n, s.lastError = e
  revert n e
  decide

/-- R21 (a) and (b) leave the error flag with an idle Engine, and eight other stages. -/
theorem statusByte_mem_of_inv {s : State} (hs : s.Inv) :
    s.statusByte ∈ [0x00, 0x01, 0x10, 0x20, 0x30, 0x40, 0x50, 0x60, 0x70, 0x80] := by
  obtain ⟨hstage, herr, -⟩ := hs
  unfold State.statusByte
  generalize s.stage = n, s.lastError = e at hstage herr ⊢
  revert n e
  decide

/-! ### The frame of a command that makes calls -/

section frame
variable {c : EngineCmd} {s t : State} (hans : onlyAnswers s.answers = true)
include hans

/-- A whole Engine command leaves what each of its pieces leaves. -/
theorem engine_run_frame (ht : runCommand (engineGo 9 c s) = t) :
    t = { s with
      stage := t.stage, lastError := t.lastError, pend0 := t.pend0, pend1 := t.pend1, wstate := t.wstate, PINS := t.PINS
      activity := t.activity, answers := t.answers, trace := t.trace, responses := t.responses } ∧
    (c.kind = .read → t.pend1 = s.pend1 ∧ t.wstate = s.wstate) ∧
    (c.kind = .write ∨ c.discard = true → t.PINS = s.PINS) := by
  obtain ⟨u, ⟨⟨hframe, -, hread, hpins⟩, -⟩, hu, -⟩ := engine_run c s hans
  rw [ht] at hu
  rw [hu]
  exact ⟨congrArg (fun v : State => { v with answers := t.answers }) hframe, hread, hpins⟩

theorem write_run_frame (hk : c.kind = .write) (ht : runCommand (engineGo 9 c s) = t) :
    t = { s with
      stage := t.stage, lastError := t.lastError, pend0 := t.pend0, pend1 := t.pend1, wstate := t.wstate
      activity := t.activity, answers := t.answers, trace := t.trace, responses := t.responses } := by
  obtain ⟨hframe, -, hpins⟩ := engine_run_frame hans ht
  rwa [hpins (.inl hk)] at hframe

theorem read_run_frame (hk : c.kind = .read) (ht : runCommand (engineGo 9 c s) = t) :
    t = { s with
      stage := t.stage, lastError := t.lastError, pend0 := t.pend0, PINS := t.PINS
      activity := t.activity, answers := t.answers, trace := t.trace, responses := t.responses } := by
  obtain ⟨hframe, hread, -⟩ := engine_run_frame hans ht
  obtain ⟨hpend1, hwstate⟩ := hread hk
  rwa [hpend1, hwstate] at hframe

theorem discarding_run_frame (hk : c.kind = .read) (hd : c.discard = true) (ht : runCommand (engineGo 9 c s) = t) :
    t = { s with
      stage := t.stage, lastError := t.lastError, pend0 := t.pend0
      activity := t.activity, answers := t.answers, trace := t.trace, responses := t.responses } := by
  have hframe := read_run_frame hans hk ht
  obtain ⟨-, -, hpins⟩ := engine_run_frame hans ht
  rwa [hpins (.inr hd)] at hframe

theorem scan_run_frame (ht : runCommand (scanStart s) = t) : t.withDirectoryOf s =
    { s with activity := t.activity, answers := t.answers, trace := t.trace, responses := t.responses } := by
  obtain ⟨u, ⟨hframe, -, -⟩, hu, -⟩ := scan_run s hans
  rw [ht] at hu
  rw [hu]
  exact congrArg (fun v : State => State.withDirectoryOf { v with answers := t.answers } s) hframe

theorem walk_run_frame {index : Nat} (ht : runCommand (walkStart index s) = t) :
    t = { s with activity := t.activity, answers := t.answers, trace := t.trace, responses := t.responses } := by
  obtain ⟨u, ⟨hframe, -, -⟩, hu, -⟩ := walk_run index s hans
  rw [ht] at hu
  rw [hu]
  exact congrArg (fun v : State => { v with answers := t.answers }) hframe

end frame

/-- A command that makes no call does nothing but answer. -/
theorem exec_of_not_usesBus {i : Instr} (hi : i.usesBus = false) (s : State) :
    ∃ ok data, exec i s = .next (s.respond (answered ok data)) := by
  cases i with
  | nop | isValid | isFamily | getCount | getFCount | getPara | getStat => exact ⟨_, _, rfl⟩
  | scan | addrIdx | writeRun | writeStep | readRun | readStep | isConn => cases hi

/-! ### The obligations -/

/-- Settles O4: past the 14 opcodes the decoder refuses, and a refused word is taken and answered. -/
theorem reservedOpcodesAnswerIllegalCommand : Obligations.ReservedOpcodesAnswerIllegalCommand := by
  refine ⟨decode_error_iff, fun s w rest ha hh ⟨e, hd⟩ => ?_, by decide⟩
  rw [step_of_reserved ha hh hd, illegalCommand_eq]

/-- Settles O55: a command that makes calls leaves what every piece of it leaves, and the others only answer. -/
theorem commandsChangeOnlyTheirRegisters : Obligations.CommandsChangeOnlyTheirRegisters := by
  intro i s t hans h
  refine ⟨fun hi => ?_, ?_, ?_, ?_, ?_, ?_⟩
  · obtain ⟨ok, data, he⟩ := exec_of_not_usesBus hi s
    rw [he] at h
    cases h
    rfl
  · rintro rfl
    exact scan_run_frame hans (Host.Outcome.next.inj h)
  · rintro index rfl
    exact walk_run_frame hans (Host.Outcome.next.inj h)
  · rintro pins a (rfl | rfl)
    · exact write_run_frame (c := writeRunCmd pins a) hans rfl (Host.Outcome.next.inj h)
    · exact write_run_frame (c := writeStepCmd pins a) hans rfl (Host.Outcome.next.inj h)
  · rintro a (rfl | rfl)
    · exact read_run_frame (c := readRunCmd a) hans rfl (Host.Outcome.next.inj h)
    · exact read_run_frame (c := readStepCmd a) hans rfl (Host.Outcome.next.inj h)
  · rintro a rfl
    exact discarding_run_frame (c := isConnCmd a) hans rfl rfl (Host.Outcome.next.inj h)

/-- Settles O9: `fetch` finds neither a command in progress nor an input. -/
theorem idleBlockChangesNothing : Obligations.IdleBlockChangesNothing := by
  intro s ha hh
  simp only [step, fetch, ha, hh]

/-- Settles O15: NOP only answers, and 0 is its opcode. -/
theorem nopAnswersAndChangesNothing : Obligations.NopAnswersAndChangesNothing :=
  ⟨fun _ => rfl, by decide, decode_nop (by decide)⟩

/-- Settles O21: GETSTAT only answers, with the status byte. -/
theorem getStatAnswersStageAndLastError : Obligations.GetStatAnswersStageAndLastError := by
  refine ⟨fun s => ?_, decode_getStat (by decide)⟩
  obtain ⟨herror, hreserved, hstage⟩ := statusByte_fields s
  exact ⟨s.statusByte, rfl, herror, hreserved, hstage, statusByte_mem_of_inv⟩

end Sys2Proof.Machine
end

section
/-! Errors of an Engine command: STAGE_RANGE (R146, R147), and what a command that ends leaves in `lastError` and `stage` (R148,
R175). -/

namespace Sys2Proof.Machine

/-! ### How an Engine command ends -/

/-- The first step of an Engine command returns, or the inputs stop it at its call, where the command gives no response: with none left
it waits, and `rst` drops it. -/
theorem stepReturns_or_no_response (c : EngineCmd) (s : State) :
    (∃ r, StepReturns c s r) ∨ (runCommand (engineGo 9 c s)).responses = s.responses := by
  cases h : engineStep c s with
  | ret r => exact .inl ⟨r, .ret h⟩
  | call q s' k =>
    obtain ⟨-, hresponses⟩ := engineStep_call_effect h
    cases hx : s.answers with
    | nil =>
      rw [engineGo_of_call h, runCommand, waitFor_answers, answers_of_call h, hx]
      exact .inr hresponses
    | cons x xs =>
      cases x with
      | answer a => exact .inl ⟨_, .call h hx⟩
      | rst u => rw [run_rst h hx]; exact .inr hresponses

/-- Whatever inputs come, an Engine command gives no response or ends with the response to the return of one of its steps. -/
theorem engine_run_ends (c : EngineCmd) (s : State) : (runCommand (engineGo 9 c s)).responses = s.responses ∨
    ∃ r : StepResult, r.Fair ∧ r.state.responses = s.responses ∧ runCommand (engineGo 9 c s) = engineRespond c r := by
  obtain ⟨r, hret⟩ | hnone := stepReturns_or_no_response c s
  · obtain ⟨hresponses, hfair⟩ := hret.effect
    rw [hret.run]
    split
    · next hgo =>
      obtain ⟨-, hd⟩ : c.run = true ∧ r.done = false := by simpa using hgo
      have ⟨hstage, _⟩ := hret.progress hd
      rw [← hresponses]
      exact engine_run_ends c r.state
    · exact .inr ⟨r, hfair, hresponses, rfl⟩
  · exact .inl hnone
termination_by 16 - s.stage.toNat
decreasing_by omega

theorem engineReply_ok (c : EngineCmd) (r : StepResult) : (engineReply c r).getLsbD 1 = r.ok := word_ok _

/-! ### The obligations -/

/-- Settles O49: the response is that to the return of a step, and a step that returns `done` 1 leaves `lastError` and `stage` so. -/
theorem failureIsReportedTwice : Obligations.FailureIsReportedTwice := by
  intro i s t w hi h hw hd
  obtain ⟨c, hruns⟩ := runs_of_isEngine hi
  rw [hruns.exec_eq] at h
  cases h
  obtain hnone | ⟨r, hfair, hresponses, he⟩ := engine_run_ends c s
  · simp [hnone] at hw
  · rw [he, engineRespond_eq] at hw ⊢
    obtain rfl : engineReply c r = w := by simpa [hresponses] using hw
    rw [engineReply_done] at hd
    rw [engineReply_ok]
    obtain ⟨herror, hstage⟩ := hfair.ended hd
    exact ⟨herror, hstage, rfl⟩

/-- Settles O41: past the last stage of its sequence the step is an abort with no call, which ends each of the commands. -/
theorem stageOutOfRangeAborts : Obligations.StageOutOfRangeAborts := by
  intro pins a s
  refine ⟨fun h => ?_, fun h => ?_⟩
  · have hret := StepReturns.ret (engineStep_read_range (c := readRunCmd a) (s := s) rfl (by bv_omega))
    exact read_of_done hret rfl
  · have hret := StepReturns.ret (engineStep_write_range (c := writeRunCmd pins a) (s := s) rfl (by bv_omega))
    exact write_of_done hret rfl

end Sys2Proof.Machine
end

section
/-! The stuck block (R171, U11): where a step stops, and that it stops nowhere else. -/

namespace Sys2Proof.Machine

theorem step_of_unanswered {s : State} {act : Activity} (ha : s.activity = some act) (hx : s.answers = []) :
    step s = .fault .noProviderAnswer := by
  simp only [step, fetch, ha, hx]

/-- With no command in progress a step answers a next state, whatever the host presents. -/
theorem step_next_of_idle {s : State} (ha : s.activity = none) : ∃ t, step s = .next t := by
  cases hh : s.host with
  | nil => exact ⟨s, idleBlockChangesNothing s ha hh⟩
  | cons x rest =>
    cases x with
    | rst u => exact ⟨_, step_of_idle_rst ha hh⟩
    | command w =>
      cases hd : decode w with
      | ok i => rw [step_of_command ha hh hd]; exact exec_next i _
      | error e => rw [step_of_reserved ha hh hd]; exact ⟨_, illegalCommand_eq _⟩

/-- A step answers a next state unless a request is outstanding with nothing left to come. -/
theorem step_next_of_ready_or_answers {s : State} (h : s.cmdReady = true ∨ s.answers ≠ []) : ∃ t, step s = .next t := by
  rcases activity_cases s with ha | ⟨act, ha⟩
  · exact step_next_of_idle ha
  · have hx : s.answers ≠ [] := h.resolve_left (by simp [State.cmdReady, ha])
    obtain ⟨x, xs, hx⟩ := List.exists_cons_of_ne_nil hx
    exact ⟨_, step_of_waiting ha hx⟩

/-! ### The obligation -/

/-- Settles O10: an unanswered request stops the step, and every other step answers a next state, which is not the fault. -/
theorem onlyAnUnansweredRequestStopsTheBlock : Obligations.OnlyAnUnansweredRequestStopsTheBlock := by
  refine fun s => ⟨⟨fun hfault => ?_, fun ⟨hwait, hx⟩ => ?_⟩, step_next_of_ready_or_answers⟩
  · by_contra hstuck
    have hgoes : s.cmdReady = true ∨ s.answers ≠ [] := by
      rwa [not_and_or, Bool.not_eq_false] at hstuck
    obtain ⟨t, ht⟩ := step_next_of_ready_or_answers hgoes
    rw [ht] at hfault
    cases hfault
  · rcases activity_cases s with ha | ⟨act, ha⟩
    · simp [State.cmdReady, ha] at hwait
    · exact step_of_unanswered ha hx

end Sys2Proof.Machine
end
